-- ==== Sys2Proof/Word.lean ====
section
/-! DEFINITION. The three word sizes of ICSUM-ECHO (spec 00_scope.md, R5 and R7). -/

namespace Sys2Proof

/-- A byte, 8 bits (R7). -/
abbrev Byte := BitVec 8

/-- A word in the checksum sense, 16 bits (R7). -/
abbrev Half := BitVec 16

/-- A register word, 32 bits (R7). -/
abbrev Word := BitVec 32

end Sys2Proof
end

