-- ==== Sys2Proof/Config.lean ====
section
/-! DEFINITION. The parameters of the block (spec 00_scope.md R5). `BASE`, the one OPEN parameter, is an argument
of the functions of Machine/Window.lean, with the premise `baseOk` of WellFormed.lean. The spec leaves no value
open (93_implementation_defined.md), so no free value stands here. -/

namespace Sys2Proof.Config

/-- Window size in bytes (R5, R28). -/
def windowSize : Nat := 0x100

/-- ICMP type of an Echo Request (R5, R67). -/
def icmpType : Byte := 0x08

/-- ICMP code (R5, R67). -/
def icmpCode : Byte := 0x00

/-- Identifier, most significant byte first (R5, R67). -/
def identifier : Half := 0x0000

/-- Sequence number, most significant byte first (R5, R67). -/
def sequence : Half := 0x0000

/-- Payload length in bytes, all zero (R5, R67). The image is 8 + 64 = 72 bytes. -/
def payloadLength : Nat := 64

end Sys2Proof.Config
end

