-- ==== Sys2Proof/Syntax.lean ====
section
/-! DEFINITION. The commands of ICSUM-ECHO, one constructor per row of the opcode table (spec 30_encoding.md R47). -/

namespace Sys2Proof

/-- A command. Operands are unsigned and carry exactly the bits the format gives them (R46). -/
inductive Instr where
  /-- NOP, do nothing (R72). -/
  | nop
  /-- CLR, start a new stream (R59). -/
  | clr
  /-- ADDB b, add one byte to the stream (R60). -/
  | addb (b : Byte)
  /-- ADDW w, add the two bytes of `w`, most significant first, to the stream (R61). -/
  | addw (w : Half)
  /-- BUILD, format the Echo Request into FRAME (R68). -/
  | build
  /-- CLRERR, clear the error record (R73). -/
  | clrerr
  deriving DecidableEq, Repr

end Sys2Proof
end

