-- ==== Sys2Proof/WellFormed.lean ====
section
/-! DEFINITION. Well-formedness. A command's operand has exactly the bits of its field, so every term of `Instr` is
well formed; what can be out of range is a number a host program writes (an assembler operand, R52) or the
platform's `BASE` (R28). Each such check is a Bool of its own, and Tests/Slice0.lean shows a term each one refuses. -/

namespace Sys2Proof

/-- Every command of the type is well formed: its operand fits its field by its type (R46). -/
def Instr.wf : Instr → Bool
  | .nop => true
  | .clr => true
  | .addb _ => true
  | .addw _ => true
  | .build => true
  | .clrerr => true

/-- R52: `ADDB imm8`, `0 <= imm8 <= 0xFF`. -/
def imm8Ok (n : Nat) : Bool := decide (n ≤ 0xFF)

/-- R52: `ADDW imm16`, `0 <= imm16 <= 0xFFFF`. -/
def imm16Ok (n : Nat) : Bool := decide (n ≤ 0xFFFF)

/-- R52: `WR name, imm32` writes a 32-bit value. -/
def imm32Ok (n : Nat) : Bool := decide (n ≤ 0xFFFFFFFF)

/-- R29: a literal offset is a byte offset of the 256-byte window. -/
def offsetOk (n : Nat) : Bool := decide (n ≤ 0xFF)

/-- R28: `BASE mod 0x100 = 0`. -/
def baseOk (base : Nat) : Bool := decide (base % 0x100 = 0)

end Sys2Proof
end

