-- ==== Sys2Proof/Decode.lean ====
section
/-! DEFINITION. The decoder, the encoder and the opcode map (spec 30_encoding.md R43 to R51). A command is one
32-bit word that arrives whole on the bus (R33, R43), so the decoder takes that word. -/

namespace Sys2Proof

/-- OP, bits [31:24] (R43, R44). -/
def opField (v : Word) : Byte := v.extractLsb' 24 8

/-- RSV, bits [23:16] (R43, R45). -/
def rsvField (v : Word) : Byte := v.extractLsb' 16 8

/-- DATA, bits [15:0] (R43, R46). -/
def dataField (v : Word) : Half := v.extractLsb' 0 16

/-- DATA[15:8] (R46). -/
def dataHigh (v : Word) : Byte := v.extractLsb' 8 8

/-- DATA[7:0] (R46). -/
def dataLow (v : Word) : Byte := v.extractLsb' 0 8

/-- Why a word is illegal (R49). The spec has one result `Illegal`; the names are the model's (log entry 9,
DESIGN CHOICE) and no step tells them apart. -/
inductive Illegal where
  /-- `RSV != 0` (R45). -/
  | reservedBitsSet
  /-- A command without an operand, and `DATA != 0` (R46). -/
  | dataNotZero
  /-- ADDB with `DATA[15:8] != 0` (R46). -/
  | dataHighNotZero
  /-- `OP >= 0x06` (R44). -/
  | unassignedOpcode
  deriving DecidableEq, Repr

/-- A command that takes no operand: DATA must be zero (R46). -/
def noOperand (v : Word) (i : Instr) : Except Illegal Instr :=
  if dataField v = 0 then .ok i else .error .dataNotZero

/-- R48, the decoder, total on every 32-bit word. -/
def decode (v : Word) : Except Illegal Instr :=
  if rsvField v ≠ 0 then .error .reservedBitsSet
  else if opField v = 0x00 then noOperand v .nop
  else if opField v = 0x01 then noOperand v .clr
  else if opField v = 0x02 then
    if dataHigh v = 0 then .ok (.addb (dataLow v)) else .error .dataHighNotZero
  else if opField v = 0x03 then .ok (.addw (dataField v))
  else if opField v = 0x04 then noOperand v .build
  else if opField v = 0x05 then noOperand v .clrerr
  else .error .unassignedOpcode

/-- R44, the opcode of each command. -/
def opcode : Instr → Byte
  | .nop => 0x00
  | .clr => 0x01
  | .addb _ => 0x02
  | .addw _ => 0x03
  | .build => 0x04
  | .clrerr => 0x05

/-- R46, the DATA field of each command. -/
def dataOf : Instr → Half
  | .nop => 0x0000
  | .clr => 0x0000
  | .addb b => (0x00 : Byte) ++ b
  | .addw w => w
  | .build => 0x0000
  | .clrerr => 0x0000

/-- The command word of a command: OP, RSV = 0, DATA (R43, R47). -/
def encode (i : Instr) : Word := opcode i ++ (0x00 : Byte) ++ dataOf i

/-- The mnemonic of a command, as the opcode table spells it (R47). -/
def mnemonic : Instr → String
  | .nop => "NOP"
  | .clr => "CLR"
  | .addb _ => "ADDB"
  | .addw _ => "ADDW"
  | .build => "BUILD"
  | .clrerr => "CLRERR"

/-- A row of the opcode map: a word `v` selects it when `v & mask = bits` (R47). -/
structure OpcodeRow where
  mnemonic : String
  bits : Word
  mask : Word
  deriving DecidableEq, Repr

/-- R47, the opcode map. -/
def opcodeMap : List OpcodeRow :=
  [ ⟨"NOP", 0x00000000, 0xFFFFFFFF⟩,
    ⟨"CLR", 0x01000000, 0xFFFFFFFF⟩,
    ⟨"ADDB", 0x02000000, 0xFFFFFF00⟩,
    ⟨"ADDW", 0x03000000, 0xFFFF0000⟩,
    ⟨"BUILD", 0x04000000, 0xFFFFFFFF⟩,
    ⟨"CLRERR", 0x05000000, 0xFFFFFFFF⟩ ]

/-- R47: "a word `v` selects the row when `v & mask = match`". -/
def OpcodeRow.selects (r : OpcodeRow) (v : Word) : Bool := v &&& r.mask == r.bits

/-- The 32-bit word of the low `nbits` bits of `w`; none where `nbits` exceeds the one length there is (R51). -/
def tableWord (nbits w : Nat) : Option Word :=
  if nbits ≤ 32 then some (BitVec.ofNat 32 (w % 2 ^ nbits)) else none

/-- What the decoder reads from a word numbered as the opcode table numbers it. -/
def decodeTableWord (nbits w : Nat) : Option Instr :=
  match tableWord nbits w with
  | none => none
  | some v => (decode v).toOption

end Sys2Proof
end

