-- ==== Sys2Proof/Machine/State.lean ====
section
/-! DEFINITION. The state of the machine: the six elements of spec 10_state.md R11, and the host's side of the bus
as plain data (the inputs still to come and the responses given so far). -/

namespace Sys2Proof.Machine

/-- The error causes (R74). "Codes 5 to 255 are never produced" (R24, R74), so the type has exactly the codes 0 to
4 (93_implementation_defined.md; log entry 14). The 8-bit code is `ErrCause.code`, in Operands.lean. -/
inductive ErrCause where
  /-- 0, no error recorded. -/
  | noError
  /-- 1 UNMAPPED, a legal access to an offset outside the register map. -/
  | unmapped
  /-- 2 BADACCESS, a size other than 4 or a misaligned offset. -/
  | badAccess
  /-- 3 RO_WRITE, a write to a read-only register. -/
  | roWrite
  /-- 4 ILLEGAL_CMD, an illegal word written to CMD. -/
  | illegalCmd
  deriving DecidableEq, Repr

/-- `BusError(cause, info)` (R8, R75). -/
structure BusError where
  cause : ErrCause
  info : Word
  deriving DecidableEq, Repr

/-- The size of an access: 1, 2 or 4 bytes, and no other (R29; log entry 7). -/
inductive AccessSize where
  | one
  | two
  | four
  deriving DecidableEq, Repr

/-- A host access `(kind, off, size, wdata)` (R29); `wdata` is absent for a read. -/
inductive Access where
  | read (off : BitVec 8) (size : AccessSize)
  | write (off : BitVec 8) (size : AccessSize) (wdata : Word)
  deriving DecidableEq, Repr

/-- What can arrive at the block between two steps (R6): an access, or the platform's reset (R88). -/
inductive Input where
  | access (a : Access)
  | reset
  deriving DecidableEq, Repr

/-- The response that ends an access (R29). -/
inductive Response where
  /-- `Ok(rdata)`, for a read. -/
  | okRead (rdata : Word)
  /-- `Ok`, for a write. -/
  | okWrite
  /-- `Err`, for either. -/
  | err
  deriving DecidableEq, Repr

/-- The registers of the register map (R18). -/
inductive Reg where
  | cmd
  | acc
  | count
  | result
  | status
  | errCause
  | errInfo
  /-- `FRAMEk`, k = 0..17. -/
  | frame (k : Fin 18)
  deriving DecidableEq, Repr

/-- The state. The first six fields are the block's, "the complete architectural state" (R11, R27). -/
structure State where
  /-- `ACC`, 32 bits (R12). -/
  acc : Word
  /-- `COUNT`, 32 bits (R13). -/
  count : Word
  /-- `FRAME[0..71]`, byte `i` being the `i`-th byte on the wire (R14). -/
  frame : Vector Byte 72
  /-- `FRAME_VALID`, 1 bit (R15). -/
  frameValid : Bool
  /-- `ERRCAUSE` (R16). -/
  errCause : ErrCause
  /-- `ERRINFO`, 32 bits (R17). -/
  errInfo : Word
  /-- The model's own field: the inputs still to arrive, oldest first (R6; log entry 1). -/
  inputs : List Input
  /-- The model's own field: the responses the host has received, oldest first (R98; log entry 2). -/
  responses : List Response
  deriving DecidableEq, Repr

/-- Why the machine stops with a fault. No constructor: "Every access completes" (R86), and an access the interface
does not accept is a next state with an error record (R75; log entry 4). -/
inductive Fault where
  deriving DecidableEq, Repr

/-- Why the machine refuses an instruction. -/
inductive Refusal where
  /-- Raised by an arm of `exec` whose command has no meaning yet. Safe. No arm raises it. -/
  | notModelled (mnemonic : String)
  deriving DecidableEq, Repr

/-- The machine right after reset (R89), with no input pending and no response given (log entries 1 and 2). -/
def State.reset : State where
  acc := 0x00000000
  count := 0x00000000
  frame := Vector.replicate 72 0x00
  frameValid := false
  errCause := .noError
  errInfo := 0x00000000
  inputs := []
  responses := []

end Sys2Proof.Machine
end

