-- ==== Sys2Proof/Machine/Operands.lean ====
section
/-! DEFINITION. Operands: the stream bytes of a command (spec 30_encoding.md R46), the register an offset names
(10_state.md R18), the legality of an access (20_memory.md R30) and the 8-bit codes of the causes
(60_exceptions.md R74). -/

namespace Sys2Proof.Machine

/-- `w[15:8]`, the first stream byte of ADDW's operand (R46, R61). -/
def firstByte (w : Half) : Byte := w.extractLsb' 8 8

/-- `w[7:0]`, the second stream byte of ADDW's operand (R46, R61). -/
def secondByte (w : Half) : Byte := w.extractLsb' 0 8

/-- `{hi, lo}`, the 16-bit word of two stream bytes, first byte most significant (R33). -/
def wordOfBytes (hi lo : Byte) : Half := hi ++ lo

/-- The code of a cause (R74). -/
def ErrCause.code : ErrCause → Byte
  | .noError => 0x00
  | .unmapped => 0x01
  | .badAccess => 0x02
  | .roWrite => 0x03
  | .illegalCmd => 0x04

/-- The number of bytes of an access (R29). -/
def AccessSize.bytes : AccessSize → Nat
  | .one => 1
  | .two => 2
  | .four => 4

/-- R30: "Only 4-byte accesses at offsets that are multiples of 4 are legal". -/
def legalAccess (off : BitVec 8) (n : AccessSize) : Bool :=
  n.bytes == 4 && off.toNat % 4 == 0

/-- `zext_32(off)` (R74). -/
def offsetInfo (off : BitVec 8) : Word := off.setWidth 32

/-- The offset of each register (R18). -/
def Reg.offset : Reg → BitVec 8
  | .cmd => 0x00
  | .acc => 0x04
  | .count => 0x08
  | .result => 0x0C
  | .status => 0x10
  | .errCause => 0x14
  | .errInfo => 0x18
  | .frame k => BitVec.ofNat 8 (0x40 + 4 * k.val)

/-- The register at an offset, none where the map has none (R18, R31, R32). It is asked only about offsets that
are multiples of 4 (R30). -/
def regAt (off : BitVec 8) : Option Reg :=
  if off = 0x00 then some .cmd
  else if off = 0x04 then some .acc
  else if off = 0x08 then some .count
  else if off = 0x0C then some .result
  else if off = 0x10 then some .status
  else if off = 0x14 then some .errCause
  else if off = 0x18 then some .errInfo
  else if h : 0x40 ≤ off.toNat ∧ off.toNat ≤ 0x84 ∧ off.toNat % 4 = 0 then
    some (.frame ⟨(off.toNat - 0x40) / 4, by omega⟩)
  else none

end Sys2Proof.Machine
end

