-- ==== Sys2Proof/Machine/Flags.lean ====
section
/-! DEFINITION. The block's only flags, the fields of STATUS (spec 10_state.md R23). They are computed from the
state; none is stored apart from FRAME_VALID. -/

namespace Sys2Proof.Machine

/-- `STATUS.ODD`, COUNT[0] (R23). -/
def oddFlag (s : State) : Bool := s.count.getLsbD 0

/-- `STATUS.FRAME_VALID` (R23). -/
def frameValidFlag (s : State) : Bool := s.frameValid

/-- `STATUS.ERR`, 1 if ERRCAUSE != 0 (R23). -/
def errFlag (s : State) : Bool := s.errCause.code != 0

/-- A flag as a 32-bit number. -/
def flagBit (b : Bool) : Word := if b then 1 else 0

/-- R31: `((ERRCAUSE != 0 ? 1 : 0) << 2) | (FRAME_VALID << 1) | COUNT[0]`. -/
def statusWord (s : State) : Word :=
  flagBit (errFlag s) <<< 2 ||| flagBit (frameValidFlag s) <<< 1 ||| flagBit (oddFlag s)

end Sys2Proof.Machine
end

