-- ==== Sys2Proof/Machine/Ops.lean ====
section
/-! DEFINITION. The shared operations: the checksum functions (spec 40_checksum.md R55, R56), the accumulator's step
(R57), the writers of the state, raising a bus error (60_exceptions.md R75), clearing its record (42_control.md
R73), reset (70_reset_and_hazards.md R88) and the register reads (20_memory.md R31). -/

namespace Sys2Proof.Machine

/-! ### The checksum functions -/

/-- One fold step, `(x & 0xFFFF) + (x >> 16)` (R55). -/
def foldStep (x : Nat) : Nat := (x &&& 0xFFFF) + (x >>> 16)

/-- At most `fuel` rounds of the loop of R55. -/
def foldRounds : Nat → Nat → Nat
  | 0, x => x
  | fuel + 1, x => if x > 0xFFFF then foldRounds fuel (foldStep x) else x

/-- `fold(x)` (R55). Every round makes `x` smaller, so `x` rounds are enough: `fold_unfold` in Laws/Ops.lean is
the loop itself. -/
def fold (x : Nat) : Nat := foldRounds x x

/-- `~16(v) = 0xFFFF - v`, for `v <= 0xFFFF` (R7). -/
def complement16 (v : Nat) : Half := BitVec.ofNat 16 (0xFFFF - v)

/-- The bytes with a zero byte after them when their number is odd (R56). -/
def padded (bs : List Byte) : List Byte :=
  if bs.length % 2 = 1 then bs ++ [0x00] else bs

/-- The unbounded sum of the words `(s_(2j) << 8) + s_(2j+1)` of a sequence of even length (R56). -/
def sumWords : List Byte → Nat
  | hi :: lo :: rest => ((hi.toNat <<< 8) + lo.toNat) + sumWords rest
  | [_] => 0
  | [] => 0

/-- `S` of R56: the unbounded word sum of a byte sequence, odd sequences padded. -/
def wordSum (bs : List Byte) : Nat := sumWords (padded bs)

/-- `csum(s)`, the Internet checksum of a byte sequence (R56). -/
def csum (bs : List Byte) : Half := complement16 (fold (wordSum bs))

/-! ### Writers of the state -/

/-- Writes ACC and COUNT, the stream's elements. -/
def State.setStream (s : State) (acc count : Word) : State := { s with acc := acc, count := count }

/-- Writes FRAME and FRAME_VALID. -/
def State.setFrame (s : State) (f : Vector Byte 72) (valid : Bool) : State :=
  { s with frame := f, frameValid := valid }

/-- Writes ERRCAUSE and ERRINFO, the error record. -/
def State.setErrorRecord (s : State) (cause : ErrCause) (info : Word) : State :=
  { s with errCause := cause, errInfo := info }

/-- The inputs still to arrive. -/
def State.setInputs (s : State) (l : List Input) : State := { s with inputs := l }

/-- Gives the host a response (R29). -/
def State.respond (s : State) (r : Response) : State := { s with responses := s.responses ++ [r] }

/-! ### The accumulator -/

/-- Where a stream byte goes (R57): `b << 8` at an even position, `b` at an odd one. -/
def placedByte (s : State) (b : Byte) : Nat := if oddFlag s then b.toNat else b.toNat <<< 8

/-- `t <- ACC + v; t[31:0] + t[32]`, the end-around carry of R57. -/
def endAroundAdd (acc : Word) (v : Nat) : Word :=
  let t := acc.toNat + v
  BitVec.ofNat 32 (t % 2 ^ 32 + t / 2 ^ 32)

/-- `feed(b)`, the accumulator's one-byte step (R57). -/
def feed (b : Byte) (s : State) : State :=
  s.setStream (endAroundAdd s.acc (placedByte s b)) (s.count + 1)

/-! ### Errors and reset -/

/-- `raise BusError(cause, info)` (R75): the record, the response Err, and nothing else. -/
def raiseBusError (e : BusError) (s : State) : State :=
  (s.setErrorRecord e.cause e.info).respond .err

/-- Clears the error record (R73, R77): the block has no return from an error, only this. -/
def clearErrorRecord (s : State) : State := s.setErrorRecord .noError 0x00000000

/-- The reset input (R88): every element of R11 takes its reset value (R89). The host's remaining inputs and the
responses it has received are not the block's and stay (log entry 6); reset gives no response. -/
def resetBlock (s : State) : State :=
  ((s.setStream State.reset.acc State.reset.count).setFrame State.reset.frame State.reset.frameValid).setErrorRecord
    State.reset.errCause State.reset.errInfo

/-! ### Register reads -/

/-- `FRAMEk`, the frame bytes `4k` to `4k+3`, the lowest-numbered most significant (R26). -/
def frameWord (f : Vector Byte 72) (k : Fin 18) : Word :=
  f[4 * k.val] ++ f[4 * k.val + 1] ++ f[4 * k.val + 2] ++ f[4 * k.val + 3]

/-- RESULT, `zext_32(~16(fold(ACC)))` (R22, R62). -/
def resultWord (s : State) : Word := (complement16 (fold s.acc.toNat)).setWidth 32

/-- What a read of a register returns (R19 to R26, R31). -/
def readReg (s : State) : Reg → Word
  | .cmd => 0x00000000
  | .acc => s.acc
  | .count => s.count
  | .result => resultWord s
  | .status => statusWord s
  | .errCause => s.errCause.code.setWidth 32
  | .errInfo => s.errInfo
  | .frame k => frameWord s.frame k

/-! ### The checks of an access -/

/-- `MemRead(off, n)` (R31): the value, or the error raised. -/
def memRead (off : BitVec 8) (n : AccessSize) (s : State) : Except BusError Word :=
  if legalAccess off n then
    match regAt off with
    | some r => .ok (readReg s r)
    | none => .error ⟨.unmapped, offsetInfo off⟩
  else .error ⟨.badAccess, offsetInfo off⟩

/-- The checks of `MemWrite(off, n, v)` in the order of R32 and R76: the command to execute, or the error raised. -/
def acceptWrite (off : BitVec 8) (n : AccessSize) (v : Word) : Except BusError Instr :=
  if legalAccess off n then
    match regAt off with
    | none => .error ⟨.unmapped, offsetInfo off⟩
    | some r =>
      if r = .cmd then
        match decode v with
        | .ok i => .ok i
        | .error _ => .error ⟨.illegalCmd, v⟩
      else .error ⟨.roWrite, offsetInfo off⟩
  else .error ⟨.badAccess, offsetInfo off⟩

end Sys2Proof.Machine
end

