-- ==== Sys2Proof/Machine/Checksum.lean ====
section
/-! DEFINITION. The checksum commands CLR, ADDB and ADDW (spec 40_checksum.md). -/

namespace Sys2Proof.Machine

/-- R59, CLR: `ACC <- 0x00000000; COUNT <- 0x00000000`. -/
def execClr (s : State) : Host.Outcome State Fault Refusal := .next (s.setStream 0x00000000 0x00000000)

/-- R60, ADDB b: `feed(b)`. -/
def execAddb (b : Byte) (s : State) : Host.Outcome State Fault Refusal := .next (feed b s)

/-- R61, ADDW w: `feed(w[15:8]); feed(w[7:0])`. -/
def execAddw (w : Half) (s : State) : Host.Outcome State Fault Refusal :=
  .next (feed (secondByte w) (feed (firstByte w) s))

end Sys2Proof.Machine
end

