-- ==== Sys2Proof/Machine/Control.lean ====
section
/-! DEFINITION. The control commands NOP and CLRERR (spec 42_control.md). -/

namespace Sys2Proof.Machine

/-- R72, NOP: "no state changes". -/
def execNop (s : State) : Host.Outcome State Fault Refusal := .next s

/-- R73, CLRERR: `ERRCAUSE <- 0x00; ERRINFO <- 0x00000000`. -/
def execClrerr (s : State) : Host.Outcome State Fault Refusal := .next (clearErrorRecord s)

end Sys2Proof.Machine
end

