-- ==== Sys2Proof/Machine/Formatter.lean ====
section
/-! DEFINITION. The Echo Request formatter, BUILD (spec 41_formatter.md). -/

namespace Sys2Proof.Machine

/-- The image of R67 with a given checksum field: type, code, checksum, identifier, sequence, payload, each 16-bit
field most significant byte first. -/
def imageWith (c : Half) : List Byte :=
  [Config.icmpType, Config.icmpCode, firstByte c, secondByte c,
    firstByte Config.identifier, secondByte Config.identifier,
    firstByte Config.sequence, secondByte Config.sequence]
  ++ List.replicate Config.payloadLength 0x00

/-- R68: the checksum over all 72 bytes with the checksum field zero. -/
def imageChecksum : Half := csum (imageWith 0x0000)

/-- R68: the finished image. -/
def echoImage : List Byte := imageWith imageChecksum

/-- The image as the contents of FRAME (R67: `FRAME[i]` is byte `i`). -/
def echoFrame : Vector Byte 72 := Vector.ofFn fun i => echoImage.getD i.val 0x00

/-- R68, BUILD: FRAME becomes the image and FRAME_VALID becomes 1; ACC and COUNT are neither read nor written. -/
def execBuild (s : State) : Host.Outcome State Fault Refusal := .next (s.setFrame echoFrame true)

end Sys2Proof.Machine
end

