-- ==== Sys2Proof/Machine/Dispatch.lean ====
section
/-! DEFINITION. One arm per command (spec 30_encoding.md R47; the rule of each arm stands at its meaning). -/

namespace Sys2Proof.Machine

def exec (i : Instr) (s : State) : Host.Outcome State Fault Refusal :=
  match i with
  | .nop => Sys2Proof.Machine.execNop s
  | .clr => Sys2Proof.Machine.execClr s
  | .addb b => Sys2Proof.Machine.execAddb b s
  | .addw w => Sys2Proof.Machine.execAddw w s
  | .build => Sys2Proof.Machine.execBuild s
  | .clrerr => Sys2Proof.Machine.execClrerr s

end Sys2Proof.Machine
end

