-- ==== Sys2Proof/Machine/Access.lean ====
section
/-! DEFINITION. What the block does with one input: a host read, a host write, or reset (spec 20_memory.md R31, R32,
R42; 70_reset_and_hazards.md R88). -/

namespace Sys2Proof.Machine

/-- The response that follows a completed command (R29, R42); a stop stays a stop. -/
def respondAfter (o : Host.Outcome State Fault Refusal) (r : Response) : Host.Outcome State Fault Refusal :=
  match o with
  | .next t => .next (t.respond r)
  | .fault f => .fault f
  | .refused x => .refused x

/-- A host read (R31): the value, with no change of state, or a bus error. -/
def hostRead (off : BitVec 8) (n : AccessSize) (s : State) : Host.Outcome State Fault Refusal :=
  match memRead off n s with
  | .ok v => .next (s.respond (.okRead v))
  | .error e => .next (raiseBusError e s)

/-- A host write (R32): the command it carries is executed, or a bus error is raised. -/
def hostWrite (off : BitVec 8) (n : AccessSize) (v : Word) (s : State) : Host.Outcome State Fault Refusal :=
  match acceptWrite off n v with
  | .ok i => respondAfter (exec i s) .okWrite
  | .error e => .next (raiseBusError e s)

/-- One input (R42). -/
def perform (i : Input) (s : State) : Host.Outcome State Fault Refusal :=
  match i with
  | .access (.read off n) => hostRead off n s
  | .access (.write off n v) => hostWrite off n v s
  | .reset => .next (resetBlock s)

/-- The 4-byte write of a command word to CMD (R43, R52). -/
def commandWrite (v : Word) : Access := .write Reg.cmd.offset .four v

end Sys2Proof.Machine
end

