-- ==== Sys2Proof/Machine/Step.lean ====
section
/-! DEFINITION. One step of the machine: the oldest pending input is taken and performed (spec 00_scope.md R6,
20_memory.md R37). With no input pending the block waits unchanged: "it never acts unless an access arrives"
(R6; log entry 3). -/

namespace Sys2Proof.Machine

/-- One step (R6, R37, R42). -/
def step (s : State) : Host.Outcome State Fault Refusal :=
  match s.inputs with
  | [] => .next s
  | i :: rest => perform i (s.setInputs rest)

/-- `s` with a 4-byte write of the word to CMD as the very next input (log entry 13). The bits of `w` above
`nbits` are zero. -/
def State.withFetchWord (s : State) (nbits w : Nat) : State :=
  s.setInputs (.access (commandWrite (BitVec.ofNat 32 (w % 2 ^ nbits))) :: s.inputs)

end Sys2Proof.Machine
end

