-- ==== Sys2Proof/Machine/Assembler.lean ====
section
/-! DEFINITION. The assembler's lines and pseudo-instructions as an expansion into accesses (spec 30_encoding.md R52,
R53). Operands are numbers as a program writes them; one out of range is refused, never truncated (R52). Comments
are no lines here (log entry 10). -/

namespace Sys2Proof.Machine

/-- R52: "`name` is a register name of 10_state.md rule R18 or a literal offset". -/
inductive Target where
  | reg (r : Reg)
  | literal (off : Nat)
  deriving DecidableEq, Repr

/-- One line of a host program (R52), or one of the pseudo-instructions ADDBYTES and CSUM (R53). -/
inductive AsmLine where
  | nop
  | clr
  | build
  | clrerr
  | addb (imm : Nat)
  | addw (imm : Nat)
  /-- `WR name, imm32`. -/
  | wr (t : Target) (imm : Nat)
  /-- `RD name`. -/
  | rd (t : Target)
  /-- `WR.n off, imm`, n in {1, 2}. -/
  | wrNarrow (n : AccessSize) (off imm : Nat)
  /-- `RD.n off`, n in {1, 2}. -/
  | rdNarrow (n : AccessSize) (off : Nat)
  | addBytes (bs : List Nat)
  | csum (bs : List Nat)
  deriving DecidableEq, Repr

/-- A host program: lines, and `REP n { lines }` (R53). -/
inductive Asm where
  | done
  | line (l : AsmLine) (rest : Asm)
  | rep (n : Nat) (body rest : Asm)
  deriving DecidableEq, Repr

/-- The write that a command mnemonic stands for (R52). -/
def writeOf (i : Instr) : Access := commandWrite (encode i)

/-- A value that passes its check, as bits; refused otherwise (R52). -/
def checked (ok : Bool) (w n : Nat) : Option (BitVec w) := if ok then some (BitVec.ofNat w n) else none

/-- The offset of a target (R52). -/
def Target.offset : Target → Option (BitVec 8)
  | .reg r => some r.offset
  | .literal off => checked (offsetOk off) 8 off

/-- R53: `ADDW {b0,b1}`, `ADDW {b2,b3}`, and a final `ADDB` for an odd number of bytes. -/
def pairedCommands : List Byte → List Instr
  | hi :: lo :: rest => .addw (wordOfBytes hi lo) :: pairedCommands rest
  | [b] => [.addb b]
  | [] => []

/-- The bytes of a pseudo-instruction's operand list, refused when one is out of range (R52). -/
def operandBytes (bs : List Nat) : Option (List Byte) := bs.mapM fun n => checked (imm8Ok n) 8 n

/-- The operand of `WR.n off, imm`: n is 1 or 2, and `imm` is an n-byte value (R8, R52). -/
def narrowOperand (n : AccessSize) (imm : Nat) : Option Word :=
  match n with
  | .one => checked (imm8Ok imm) 32 imm
  | .two => checked (imm16Ok imm) 32 imm
  | .four => none

/-- The accesses of one line (R52, R53); none where the assembler refuses it. -/
def assembleLine : AsmLine → Option (List Access)
  | .nop => some [writeOf .nop]
  | .clr => some [writeOf .clr]
  | .build => some [writeOf .build]
  | .clrerr => some [writeOf .clrerr]
  | .addb imm => (checked (imm8Ok imm) 8 imm).map fun b => [writeOf (.addb b)]
  | .addw imm => (checked (imm16Ok imm) 16 imm).map fun w => [writeOf (.addw w)]
  | .wr t imm => do
    let off ← t.offset
    let v ← checked (imm32Ok imm) 32 imm
    return [.write off .four v]
  | .rd t => t.offset.map fun off => [.read off .four]
  | .wrNarrow n off imm => do
    let o ← checked (offsetOk off) 8 off
    let v ← narrowOperand n imm
    return [.write o n v]
  | .rdNarrow n off => do
    let o ← checked (offsetOk off && n != .four) 8 off
    return [.read o n]
  | .addBytes bs => (operandBytes bs).map fun l => (pairedCommands l).map writeOf
  | .csum bs => (operandBytes bs).map fun l =>
    writeOf .clr :: (pairedCommands l).map writeOf ++ [.read Reg.result.offset .four]

/-- The accesses of a program (R52, R53). -/
def assemble : Asm → Option (List Access)
  | .done => some []
  | .line l rest => do
    let a ← assembleLine l
    let b ← assemble rest
    return a ++ b
  | .rep n body rest => do
    let a ← assemble body
    let b ← assemble rest
    return (List.replicate n a).flatten ++ b

end Sys2Proof.Machine
end

