-- ==== Sys2Proof/Machine/Window.lean ====
section
/-! DEFINITION. The register window in the platform's address space (spec 20_memory.md R28). `BASE` is an argument,
with `baseOk base` (WellFormed.lean) what the spec requires of it; platform addresses are numbers, since the spec
gives them no width (log entry 5). -/

namespace Sys2Proof.Machine

/-- R28: the byte offset `a - BASE` of an address inside the window, none outside it. -/
def windowOffset (base a : Nat) : Option (BitVec 8) :=
  if base ≤ a ∧ a < base + Config.windowSize then some (BitVec.ofNat 8 (a - base)) else none

/-- An access the host issues on the platform's bus. -/
inductive PlatformAccess where
  | read (addr : Nat) (size : AccessSize)
  | write (addr : Nat) (size : AccessSize) (wdata : Word)
  deriving DecidableEq, Repr

/-- R28: what reaches the block; "addresses outside the window never reach the block". -/
def reachesBlock (base : Nat) : PlatformAccess → Option Access
  | .read a n => (windowOffset base a).map fun off => .read off n
  | .write a n v => (windowOffset base a).map fun off => .write off n v

/-- The inputs the block sees of a host program written in platform addresses. -/
def blockInputs (base : Nat) (program : List PlatformAccess) : List Input :=
  (program.filterMap (reachesBlock base)).map .access

end Sys2Proof.Machine
end

