-- ==== Sys2Proof/Safety.lean ====
section
/-! DEFINITION. The terms in which claims about the machine are stated: what stays the same, what stream a state
holds (spec 40_checksum.md R58), and the invariants of the error record (10_state.md R16, R17, R24) and of FRAME
(R14, R15). None of these is used by the machine. -/

namespace Sys2Proof.Machine

/-! ### What stays the same -/

/-- ACC and COUNT are the same. -/
structure StreamSame (s t : State) : Prop where
  acc : t.acc = s.acc
  count : t.count = s.count

/-- Every byte of FRAME, and FRAME_VALID, are the same. -/
structure FrameSame (s t : State) : Prop where
  byte : ∀ i : Fin 72, t.frame[i] = s.frame[i]
  valid : t.frameValid = s.frameValid

/-- ERRCAUSE and ERRINFO are the same. -/
structure RecordSame (s t : State) : Prop where
  cause : t.errCause = s.errCause
  info : t.errInfo = s.errInfo

/-- The host's side is the same: the inputs to come and the responses given. -/
structure HostSame (s t : State) : Prop where
  inputs : t.inputs = s.inputs
  responses : t.responses = s.responses

/-- The whole of R11 is the same. -/
structure BlockSame (s t : State) : Prop where
  stream : StreamSame s t
  frame : FrameSame s t
  record : RecordSame s t

/-! ### Arithmetic of the accumulator -/

/-- One's-complement addition on 32 bits, written by its two cases (R57, R58: an end-around carry replaces the sum
`t` by `t - (2^32 - 1)`). -/
def onesAdd (a v : Nat) : Nat := if a + v < 2 ^ 32 then a + v else a + v - 0xFFFFFFFF

/-- R57 by the parity of COUNT: the high half at an even position, the low half at an odd one. -/
def byteWeight (count : Word) : Nat := if count.toNat % 2 = 0 then 256 else 1

/-! ### Streams -/

/-- The stream bytes a command feeds, in order (R46, R60, R61). -/
def fedBy : Instr → List Byte
  | .addb b => [b]
  | .addw w => [firstByte w, secondByte w]
  | .nop => []
  | .clr => []
  | .build => []
  | .clrerr => []

/-- The commands that only feed: ADDB and ADDW. -/
def feeds : Instr → Bool
  | .addb _ => true
  | .addw _ => true
  | .nop => false
  | .clr => false
  | .build => false
  | .clrerr => false

/-- The command an input carries: a 4-byte write of a legal word to offset 0x00 (R32, R43). -/
def commandOf : Input → Option Instr
  | .access (.write off n v) => if off = 0x00 ∧ n = .four then (decode v).toOption else none
  | .access (.read _ _) => none
  | .reset => none

/-- Whether an input starts a new stream: CLR or reset (R9, "stream"). -/
def startsStream (i : Input) : Bool := i == .reset || commandOf i == some .clr

/-- The stream bytes an input feeds. -/
def fedByInput (i : Input) : List Byte :=
  match commandOf i with
  | some c => fedBy c
  | none => []

/-- The stream after an input (R9, "the sequence of bytes fed to the accumulator since the last CLR or reset"). -/
def streamAfter (i : Input) (str : List Byte) : List Byte :=
  if startsStream i then [] else str ++ fedByInput i

/-- R58: the state's ACC and COUNT are those of the stream `str`. -/
structure TracksStream (s : State) (str : List Byte) : Prop where
  count : s.count.toNat = str.length % 2 ^ 32
  zero : wordSum str = 0 → s.acc = 0
  nonzero : wordSum str ≠ 0 → s.acc ≠ 0 ∧ s.acc.toNat % 0xFFFFFFFF = wordSum str % 0xFFFFFFFF

/-- Commands executed one after the other. -/
def execAll : List Instr → State → Host.Outcome State Fault Refusal
  | [], s => .next s
  | i :: rest, s =>
    match exec i s with
    | .next t => execAll rest t
    | .fault f => .fault f
    | .refused r => .refused r

/-! ### Errors -/

/-- R18, R32: the mapped offsets, `0x00` to `0x18` and `0x40` to `0x84` in steps of 4. -/
def isMapped (off : Nat) : Bool := off % 4 == 0 && (off ≤ 0x18 || (0x40 ≤ off && off ≤ 0x84))

/-- The state after the erroring access that was the head of the inputs (R75): its cause and information are
recorded, Err is the response, and the remaining inputs are `rest`. -/
def afterError (s : State) (rest : List Input) (c : ErrCause) (info : Word) : State :=
  { s with inputs := rest, errCause := c, errInfo := info, responses := s.responses ++ [.err] }

/-- R49: the word selects no command, and its write to CMD raises cause 4 with the word as information and has no
other effect. -/
def raisesIllegal (v : Word) : Prop :=
  (decode v).toOption = none
  ∧ ∀ (s : State) (rest : List Input),
      step (s.setInputs (.access (.write 0x00 .four v) :: rest)) = .next (afterError s rest .illegalCmd v)

/-- R74: the cause and the information that an erring access records. -/
def causeOf (a : Access) (c : ErrCause) (info : Word) : Prop :=
  match a with
  | .read off n =>
    (n ≠ .four ∨ off.toNat % 4 ≠ 0) ∧ c = .badAccess ∧ info = off.setWidth 32
    ∨ (n = .four ∧ off.toNat % 4 = 0) ∧ isMapped off.toNat = false ∧ c = .unmapped ∧ info = off.setWidth 32
  | .write off n v =>
    (n ≠ .four ∨ off.toNat % 4 ≠ 0) ∧ c = .badAccess ∧ info = off.setWidth 32
    ∨ (n = .four ∧ off.toNat % 4 = 0) ∧ isMapped off.toNat = false ∧ c = .unmapped ∧ info = off.setWidth 32
    ∨ n = .four ∧ isMapped off.toNat = true ∧ off ≠ 0x00 ∧ c = .roWrite ∧ info = off.setWidth 32
    ∨ n = .four ∧ off = 0x00 ∧ (decode v).toOption = none ∧ c = .illegalCmd ∧ info = v

/-- R31's table of values, by offset, with the frame bytes at `off - 0x40` and the three after it (R26). -/
def readTable (s : State) (off : Nat) : Word :=
  if off = 0x00 then 0
  else if off = 0x04 then s.acc
  else if off = 0x08 then s.count
  else if off = 0x0C then BitVec.ofNat 32 (0xFFFF - fold s.acc.toNat)
  else if off = 0x10 then
    BitVec.ofNat 32 ((if s.errCause = .noError then 0 else 4) + (if s.frameValid then 2 else 0) + s.count.toNat % 2)
  else if off = 0x14 then BitVec.ofNat 32 s.errCause.code.toNat
  else if off = 0x18 then s.errInfo
  else
    let byte (j : Nat) : Nat := (s.frame.toList.getD (off - 0x40 + j) 0).toNat
    BitVec.ofNat 32 (byte 0 * 2 ^ 24 + byte 1 * 2 ^ 16 + byte 2 * 2 ^ 8 + byte 3)

/-- R16, R17, R74: what ERRINFO can hold beside each cause. -/
def recordOk (c : ErrCause) (info : Word) : Prop :=
  match c with
  | .noError => info = 0
  | .unmapped => info.toNat < 0x100 ∧ info.toNat % 4 = 0 ∧ isMapped info.toNat = false
  | .badAccess => info.toNat < 0x100
  | .roWrite => isMapped info.toNat = true ∧ info ≠ 0
  | .illegalCmd => (decode info).toOption = none

/-! ### FRAME -/

/-- R69: "The finished image is `08 00 F7 FF` followed by 68 bytes `00`". -/
def imageByte (i : Nat) : Byte :=
  if i = 0 then 0x08 else if i = 2 then 0xF7 else if i = 3 then 0xFF else 0x00

/-- R14, R15: FRAME is all zero before the first BUILD, and the image after it. -/
structure FrameOk (s : State) : Prop where
  unbuilt : s.frameValid = false → ∀ i : Fin 72, s.frame[i] = 0x00
  built : s.frameValid = true → ∀ i : Fin 72, s.frame[i] = imageByte i.val

/-- The invariant every step keeps. -/
structure Inv (s : State) : Prop where
  frame : FrameOk s
  record : recordOk s.errCause s.errInfo

end Sys2Proof.Machine
end

