-- ==== Sys2Proof/Certificates/Slice0/Obligations.lean ====
section
/-! DEFINITION. The statements for the provers. Each docstring names the rule of spec/ it formalises. -/

open Sys2Proof Sys2Proof.Machine

/-! ### Decoding and encoding -/

/-- The words of 95_test_vectors.md 2.5, written out from the spec, decode to the command they stand for, and the
illegal ones to none. -/
def Obligations.SpecWordsDecode : Prop :=
  decode 0x00000000 = .ok .nop ∧ decode 0x01000000 = .ok .clr ∧ decode 0x020000FF = .ok (.addb 0xFF)
  ∧ decode 0x0300FFFF = .ok (.addw 0xFFFF) ∧ decode 0x04000000 = .ok .build ∧ decode 0x05000000 = .ok .clrerr
  ∧ ∀ v ∈ ([0x00000001, 0x00800000, 0x02000100, 0x03010000, 0x04000001, 0x06000000, 0xFF000000] : List Word),
      (decode v).toOption = none

/-- R48, with R44 and R45: the decoder, case by case, on the word's fields as numbers (OP is bits [31:24], RSV bits
[23:16], DATA bits [15:0]). -/
def Obligations.DecoderFollowsTheFormat : Prop :=
  ∀ v : Word,
    let op := v.toNat / 2 ^ 24
    let rsv := v.toNat / 2 ^ 16 % 2 ^ 8
    let data := v.toNat % 2 ^ 16
    (decode v).toOption =
      if rsv ≠ 0 then none
      else if op = 0 then (if data = 0 then some .nop else none)
      else if op = 1 then (if data = 0 then some .clr else none)
      else if op = 2 then (if data / 2 ^ 8 = 0 then some (.addb (BitVec.ofNat 8 data)) else none)
      else if op = 3 then some (.addw (BitVec.ofNat 16 data))
      else if op = 4 then (if data = 0 then some .build else none)
      else if op = 5 then (if data = 0 then some .clrerr else none)
      else none

/-- R47: the opcode map is the table's six rows, a word decodes to a command exactly when it selects that command's
row, with the operand where the bit pattern puts it, and no two rows match the same word. -/
def Obligations.OpcodeMapRowsSelectTheCommand : Prop :=
  opcodeMap.map (fun r => (r.mnemonic, r.bits.toNat, r.mask.toNat)) =
    [("NOP", 0x00000000, 0xFFFFFFFF), ("CLR", 0x01000000, 0xFFFFFFFF), ("ADDB", 0x02000000, 0xFFFFFF00),
     ("ADDW", 0x03000000, 0xFFFF0000), ("BUILD", 0x04000000, 0xFFFFFFFF), ("CLRERR", 0x05000000, 0xFFFFFFFF)]
  ∧ (∀ v : Word, ∀ r ∈ opcodeMap,
      v &&& r.mask = r.bits ↔ ∃ i, decode v = .ok i ∧ mnemonic i = r.mnemonic)
  ∧ (∀ v : Word, ∀ r ∈ opcodeMap, ∀ q ∈ opcodeMap, v &&& r.mask = r.bits → v &&& q.mask = q.bits → r = q)
  ∧ (∀ b : Byte, (decode (0x02000000 ||| b.setWidth 32)).toOption = some (.addb b))
  ∧ ∀ w : Half, (decode (0x03000000 ||| w.setWidth 32)).toOption = some (.addw w)

/-- R43 to R47: decoding the word of a command gives the command back, with every operand at every value (every term
of the type is a well-formed command). -/
def Obligations.DecodeOfEncodeIsTheCommand : Prop :=
  ∀ i : Instr, decode (encode i) = .ok i

/-- R47, R48: a word that decodes is the word of the command it decodes to: each command has one encoding. -/
def Obligations.LegalWordsAreEncodings : Prop :=
  ∀ (v : Word) (i : Instr), decode v = .ok i → encode i = v

/-- R49 (derived there from R47 and R48): "Of the 2^32 words exactly `4 + 2^8 + 2^16` = 65 796 are legal". -/
def Obligations.LegalWordsNumber65796 : Prop :=
  Nat.card { v : Word // ∃ i, decode v = .ok i } = 4 + 2 ^ 8 + 2 ^ 16
  ∧ (4 + 2 ^ 8 + 2 ^ 16 : Nat) = 65796

/-! ### The step -/

/-- R19, R32, R43: a 4-byte write to CMD of a word that decodes to `i` runs exactly `exec i`, on the state whose
next input is the one after it, and answers Ok. -/
def Obligations.StepRunsTheDecodedCommand : Prop :=
  ∀ (s : State) (rest : List Input) (v : Word) (i : Instr),
    s.inputs = .access (.write 0x00 .four v) :: rest → decode v = .ok i →
    step s = match exec i { s with inputs := rest } with
      | .next t => .next { t with responses := t.responses ++ [.okWrite] }
      | .fault f => .fault f
      | .refused r => .refused r

/-- The model's choice (log entry 3, DEDUCED from R6): with no input pending the block does not act. -/
def Obligations.NoInputNoChange : Prop :=
  ∀ s : State, s.inputs = [] → step s = .next s

/-- R86: every access completes with exactly one response, in every state; reset gives none (R88), and the next
input is always the one after it. -/
def Obligations.EveryAccessCompletes : Prop :=
  ∀ (s : State) (i : Input) (rest : List Input),
    ∃ t, step (s.setInputs (i :: rest)) = .next t ∧ t.inputs = rest ∧
      match i with
      | .access (.read _ _) => t.responses = s.responses ++ [.err] ∨ ∃ v, t.responses = s.responses ++ [.okRead v]
      | .access (.write _ _ _) => t.responses = s.responses ++ [.err] ∨ t.responses = s.responses ++ [.okWrite]
      | .reset => t.responses = s.responses

/-- R87: every command completes for every operand in every state, records no error, and RESULT is defined in
every state. -/
def Obligations.NoDataValueCausesAnError : Prop :=
  ∀ (i : Instr) (s : State), ∃ t, exec i s = .next t ∧ t.responses = s.responses
    ∧ (i ≠ .clrerr → RecordSame s t) ∧ ∃ w, memRead 0x0C .four t = .ok w

/-! ### The commands -/

/-- R72, NOP: its encoding, its effect, and its corner case: a write of zero to CMD sees no error. -/
def Obligations.NopChangesNothing : Prop :=
  (∀ v : Word, (decode v).toOption = some .nop ↔ v = 0x00000000)
  ∧ (∀ v : Word, v.toNat / 2 ^ 24 = 0x00 → v ≠ 0x00000000 → raisesIllegal v)
  ∧ (∀ s : State, exec .nop s = .next s)
  ∧ ∀ (s : State) (rest : List Input), step (s.setInputs (.access (.write 0x00 .four 0x00000000) :: rest))
      = .next { s with inputs := rest, responses := s.responses ++ [.okWrite] }

/-- R59, CLR: its encoding, its effect, its frame and its corner cases. -/
def Obligations.ClrStartsANewStream : Prop :=
  (∀ v : Word, (decode v).toOption = some .clr ↔ v = 0x01000000)
  ∧ (∀ v : Word, v.toNat / 2 ^ 24 = 0x01 → v ≠ 0x01000000 → raisesIllegal v)
  ∧ ∀ s : State, ∃ t, exec .clr s = .next t ∧ t.acc = 0x00000000 ∧ t.count = 0x00000000
      ∧ oddFlag t = false ∧ frameValidFlag t = frameValidFlag s ∧ errFlag t = errFlag s
      ∧ memRead 0x0C .four t = .ok 0x0000FFFF
      ∧ FrameSame s t ∧ RecordSame s t ∧ HostSame s t
      ∧ (s.acc = 0x00000000 → s.count = 0x00000000 → t = s)

/-- R57, feed: the sum with its end-around carry, as a number (so the carry cannot carry again), and COUNT modulo
2^32. -/
def Obligations.FeedAddsWithEndAroundCarry : Prop :=
  ∀ (b : Byte) (s : State),
    let v := if s.count.toNat % 2 = 0 then b.toNat * 2 ^ 8 else b.toNat
    let t := s.acc.toNat + v
    (feed b s).acc.toNat = t % 2 ^ 32 + t / 2 ^ 32
    ∧ (feed b s).count.toNat = (s.count.toNat + 1) % 2 ^ 32
    ∧ FrameSame s (feed b s) ∧ RecordSame s (feed b s) ∧ HostSame s (feed b s)

/-- R60, ADDB: its encoding, its effect, its frame and its example. -/
def Obligations.AddbFeedsOneByte : Prop :=
  (∀ b : Byte, decode (0x02000000 + b.setWidth 32) = .ok (.addb b))
  ∧ (∀ v : Word, v.toNat / 2 ^ 24 = 0x02 → 2 ^ 8 ≤ v.toNat % 2 ^ 24 → raisesIllegal v)
  ∧ (∀ (b : Byte) (s : State), ∃ t, exec (.addb b) s = .next t
      ∧ t.acc.toNat = onesAdd s.acc.toNat (byteWeight s.count * b.toNat)
      ∧ t.count.toNat = (s.count.toNat + 1) % 2 ^ 32
      ∧ oddFlag t = !oddFlag s
      ∧ FrameSame s t ∧ RecordSame s t ∧ HostSame s t)
  ∧ ∀ s : State, ∃ r t u, exec .clr s = .next r ∧ exec (.addb 0xAB) r = .next t
      ∧ t.acc = 0x0000AB00 ∧ t.count = 1 ∧ oddFlag t = true ∧ memRead 0x0C .four t = .ok 0x000054FF
      ∧ exec (.addb 0xCD) t = .next u
      ∧ u.acc = 0x0000ABCD ∧ u.count = 2 ∧ memRead 0x0C .four u = .ok 0x00005432

/-- R61, ADDW: its encoding; its effect at an even and at an odd position, the same as two ADDBs; its frame; its
corner case and its example. -/
def Obligations.AddwFeedsTwoBytes : Prop :=
  (∀ w : Half, decode (0x03000000 + w.setWidth 32) = .ok (.addw w))
  ∧ (∀ v : Word, v.toNat / 2 ^ 24 = 0x03 → v.toNat / 2 ^ 16 % 2 ^ 8 ≠ 0 → raisesIllegal v)
  ∧ (∀ (w : Half) (s : State), ∃ t, exec (.addw w) s = .next t
      ∧ t.acc.toNat = onesAdd s.acc.toNat
          (if s.count.toNat % 2 = 0 then w.toNat else w.toNat / 2 ^ 8 + w.toNat % 2 ^ 8 * 2 ^ 8)
      ∧ t.count.toNat = (s.count.toNat + 2) % 2 ^ 32
      ∧ oddFlag t = oddFlag s
      ∧ FrameSame s t ∧ RecordSame s t ∧ HostSame s t
      ∧ ∃ m, exec (.addb (w.extractLsb' 8 8)) s = .next m ∧ exec (.addb (w.extractLsb' 0 8)) m = .next t)
  ∧ (∀ s : State, ∃ r t, exec .clr s = .next r ∧ exec (.addw 0xFFFF) r = .next t
      ∧ memRead 0x0C .four t = .ok 0x00000000)
  ∧ ∀ s : State, ∃ t, execAll [.clr, .addw 0x0001, .addw 0xF203, .addw 0xF4F5, .addw 0xF6F7] s = .next t
      ∧ t.acc = 0x0002DDF0 ∧ t.count = 8 ∧ memRead 0x0C .four t = .ok 0x0000220D

/-- R67, R68, BUILD: its encoding; the image byte by byte, with the checksum of the image whose checksum field is
zero; its frame; its corner case and its example. -/
def Obligations.BuildFormatsTheEchoRequest : Prop :=
  (∀ v : Word, (decode v).toOption = some .build ↔ v = 0x04000000)
  ∧ (∀ v : Word, v.toNat / 2 ^ 24 = 0x04 → v ≠ 0x04000000 → raisesIllegal v)
  ∧ (∀ s : State, ∃ t, exec .build s = .next t
      ∧ (let c := csum ([0x08, 0x00, 0x00, 0x00, 0x00, 0x00, 0x00, 0x00] ++ List.replicate 64 0x00)
         ∀ i : Fin 72, t.frame[i] =
           if i.val = 0 then 0x08 else if i.val = 2 then c.extractLsb' 8 8
           else if i.val = 3 then c.extractLsb' 0 8 else 0x00)
      ∧ t.frameValid = true ∧ oddFlag t = oddFlag s ∧ errFlag t = errFlag s
      ∧ StreamSame s t ∧ RecordSame s t ∧ HostSame s t
      ∧ exec .build t = .next t)
  ∧ ∃ t, exec .build State.reset = .next t ∧ memRead 0x40 .four t = .ok 0x0800F7FF
      ∧ memRead 0x10 .four t = .ok 0x00000002
      ∧ ∀ k : Fin 17, memRead (BitVec.ofNat 8 (0x44 + 4 * k.val)) .four t = .ok 0x00000000

/-- R73, CLRERR: its encoding, its effect, its frame and its corner cases: no other command clears the record. -/
def Obligations.ClrerrClearsTheErrorRecord : Prop :=
  (∀ v : Word, (decode v).toOption = some .clrerr ↔ v = 0x05000000)
  ∧ (∀ v : Word, v.toNat / 2 ^ 24 = 0x05 → v ≠ 0x05000000 → raisesIllegal v)
  ∧ ∀ s : State, ∃ t, exec .clrerr s = .next t ∧ t.errCause.code = 0x00 ∧ t.errInfo = 0x00000000
      ∧ errFlag t = false ∧ oddFlag t = oddFlag s ∧ frameValidFlag t = frameValidFlag s
      ∧ StreamSame s t ∧ FrameSame s t ∧ HostSame s t
      ∧ (s.errCause.code = 0x00 → s.errInfo = 0x00000000 → t = s)
      ∧ ∀ i u, exec i s = .next u → u.errCause.code ≠ s.errCause.code → i = .clrerr

/-- R34 (derived there): CLR, BUILD, NOP and CLRERR "give the same state when repeated"; ADDB written twice feeds
two bytes, so its second writing always changes the state. -/
def Obligations.RepeatedCommands : Prop :=
  (∀ i : Instr, i = .clr ∨ i = .build ∨ i = .nop ∨ i = .clrerr →
      ∀ s : State, ∃ t, exec i s = .next t ∧ exec i t = .next t)
  ∧ ∀ (b : Byte) (s : State), ∃ t u, exec (.addb b) s = .next t ∧ exec (.addb b) t = .next u ∧ u ≠ t
      ∧ u.count.toNat = (s.count.toNat + 2) % 2 ^ 32

/-- R94 (derived there): BUILD and the stream do not interact: BUILD commutes with every stream command, in every
state. -/
def Obligations.BuildAndTheStreamDoNotInteract : Prop :=
  ∀ i : Instr, i = .clr ∨ feeds i = true →
    ∀ s : State, ∃ t, execAll [.build, i] s = .next t ∧ execAll [i, .build] s = .next t

/-! ### The checksum functions -/

/-- R55, fold: the source's loop, whose result is at most `0xFFFF`. -/
def Obligations.FoldIsTheSourceLoop : Prop :=
  ∀ x : Nat, (fold x = if x > 0xFFFF then fold ((x &&& 0xFFFF) + (x >>> 16)) else x) ∧ fold x ≤ 0xFFFF

/-- The properties R55 derives from the loop: what it leaves alone, when it is zero, the one value it can be, and
that two rounds are enough for 32 bits. -/
def Obligations.FoldIsTheSumModuloFFFF : Prop :=
  (∀ x : Nat, x ≤ 0xFFFF → fold x = x)
  ∧ (∀ x : Nat, fold x = 0 ↔ x = 0)
  ∧ (∀ x y : Nat, 0 < x → (fold x = y ↔ (1 ≤ y ∧ y ≤ 0xFFFF ∧ y % 0xFFFF = x % 0xFFFF)))
  ∧ ∀ x : Nat, x ≤ 0xFFFFFFFF → foldRounds 2 x = fold x

/-- R56, csum: the unbounded sum written with its index `j`, over the padded sequence, folded and complemented; the
empty sequence gives `0xFFFF`. -/
def Obligations.CsumIsTheFoldedWordSum : Prop :=
  (∀ bs : List Byte,
    let p := if bs.length % 2 = 1 then bs ++ [0x00] else bs
    let S := ∑ j ∈ Finset.range (p.length / 2), (((p.getD (2 * j) 0).toNat <<< 8) + (p.getD (2 * j + 1) 0).toNat)
    (csum bs).toNat = 0xFFFF - fold S)
  ∧ csum [] = 0xFFFF

/-- R64: "for any buffer B with checksum field set to 0, let C = checksum(B); then checksum(B with checksum field
set to C) == 0 over the same region", for a field at an even position. -/
def Obligations.ChecksumVerifiesItself : Prop :=
  ∀ before after : List Byte, before.length % 2 = 0 →
    let C := csum (before ++ [0x00, 0x00] ++ after)
    csum (before ++ [C.extractLsb' 8 8, C.extractLsb' 0 8] ++ after) = 0x0000

/-! ### The stream -/

/-- R58 (derived there from R55 to R57), as an invariant of every step: if ACC and COUNT are those of a stream,
then after the step they are those of the stream the input leaves. -/
def Obligations.StepKeepsTheStreamSum : Prop :=
  ∀ (s t : State) (str : List Byte), TracksStream s str → step s = .next t →
    match s.inputs with
    | [] => TracksStream t str
    | i :: _ => TracksStream t (streamAfter i str)

/-- R89, R58: the reset state is the empty stream's. -/
def Obligations.ResetHoldsTheEmptyStream : Prop := TracksStream State.reset []

/-- R62, R58 (derived there): RESULT reads the checksum of the stream, zero-extended; the odd flag is its length's
parity, and COUNT its length modulo 2^32. -/
def Obligations.ResultIsTheChecksumOfTheStream : Prop :=
  ∀ (s : State) (str : List Byte), TracksStream s str →
    memRead 0x0C .four s = .ok ((csum str).setWidth 32)
    ∧ (oddFlag s = true ↔ str.length % 2 = 1)
    ∧ ∃ w, memRead 0x08 .four s = .ok w ∧ w.toNat = str.length % 2 ^ 32

/-- R56, R58, R95 (derived there): for a stream whose word sum fits in 32 bits, in particular of at most 131 074
bytes, ACC is the word sum itself. -/
def Obligations.ShortStreamsSumExactly : Prop :=
  ∀ (s : State) (str : List Byte), TracksStream s str →
    (wordSum str ≤ 0xFFFFFFFF → s.acc.toNat = wordSum str)
    ∧ (str.length ≤ 131074 → wordSum str ≤ 0xFFFFFFFF ∧ s.acc.toNat = wordSum str)

/-- R58 (derived there): "ACC never returns to 0 once a non-zero byte has been fed", until CLR or reset. -/
def Obligations.AccNeverReturnsToZero : Prop :=
  ∀ (s t : State) (i : Input) (rest : List Input),
    s.inputs = i :: rest → startsStream i = false → s.acc ≠ 0 → step s = .next t → t.acc ≠ 0

/-- R65, R58 (derived there): from any state, CLR and then any inputs that start no other stream (commands legal
or not, reads, erring accesses) leave COUNT at the number of bytes fed and RESULT at the checksum of exactly those
bytes: whatever stood before the CLR, however the bytes were split, and whatever else was done in between. -/
def Obligations.ResultDependsOnlyOnTheBytesFed : Prop :=
  ∀ (s : State) (l rest : List Input), (∀ i ∈ l, startsStream i = false) →
    ∃ t : State, Host.Core.run Sys2Proof.core (1 + l.length)
          (s.setInputs (.access (.write 0x00 .four 0x01000000) :: l ++ rest)) = .next t
      ∧ t.inputs = rest
      ∧ memRead 0x0C .four t = .ok ((csum (l.flatMap fedByInput)).setWidth 32)
      ∧ t.count.toNat = (l.flatMap fedByInput).length % 2 ^ 32

/-- R66.2 (derived there): any two ways of feeding the same bytes, by any mix of ADDB and ADDW, leave the same
state. -/
def Obligations.SplittingTheStreamChangesNothing : Prop :=
  ∀ cs ds : List Instr, (∀ i ∈ cs ++ ds, feeds i = true) → cs.flatMap fedBy = ds.flatMap fedBy →
    ∀ s : State, ∃ t, execAll cs s = .next t ∧ execAll ds s = .next t

/-- R66.3 (derived there): the order of 16-bit words does not matter; it holds for any rearrangement, at every
stream position. -/
def Obligations.WordOrderDoesNotMatter : Prop :=
  ∀ ws zs : List Half, ws.Perm zs →
    ∀ s : State, ∃ t, execAll (ws.map .addw) s = .next t ∧ execAll (zs.map .addw) s = .next t

/-- R66.4 (derived there): a zero byte changes ACC by nothing and moves the parity, so RESULT stays. -/
def Obligations.ZeroByteMovesOnlyTheParity : Prop :=
  ∀ s : State, ∃ t, exec (.addb 0x00) s = .next t ∧ t.acc = s.acc ∧ oddFlag t = !oddFlag s
    ∧ memRead 0x0C .four t = memRead 0x0C .four s

/-- R71 (derived there): after BUILD, feeding the 72 bytes of FRAME through CLR and ADDB, or CLR and ADDW, gives
ACC `0x0000FFFF`, COUNT 72 and RESULT 0. -/
def Obligations.BuiltFrameVerifiesItself : Prop :=
  ∀ s : State, ∃ t u, exec .build s = .next t
    ∧ execAll (.clr :: t.frame.toList.map .addb) t = .next u
    ∧ execAll (.clr :: pairedCommands t.frame.toList) t = .next u
    ∧ u.acc = 0x0000FFFF ∧ u.count = 72 ∧ memRead 0x0C .four u = .ok 0x00000000

/-- R65, R94 (derived there): ACC and COUNT after a step depend on ACC, COUNT and the input alone: not on FRAME,
FRAME_VALID, the error record or the responses. -/
def Obligations.StreamIsIndependentOfTheRest : Prop :=
  ∀ s t s' t' : State, s.inputs = t.inputs → StreamSame s t → step s = .next s' → step t = .next t' →
    StreamSame s' t'

/-! ### Reads and writes of the register window -/

/-- R31, R30: every host read, at every offset and size, in every state: the value of the register map, with no
change of state, or the error it raises. -/
def Obligations.HostReadFollowsTheRegisterMap : Prop :=
  ∀ (s : State) (rest : List Input) (off : BitVec 8) (n : AccessSize),
    step (s.setInputs (.access (.read off n) :: rest)) = .next (
      if n ≠ .four ∨ off.toNat % 4 ≠ 0 then afterError s rest .badAccess (off.setWidth 32)
      else if isMapped off.toNat = true then
        { s with inputs := rest, responses := s.responses ++ [.okRead (readTable s off.toNat)] }
      else afterError s rest .unmapped (off.setWidth 32))

/-- R32, R30, R76: every host write, at every offset, size and value, in every state: the first cause that applies,
in the order BADACCESS, UNMAPPED, RO_WRITE, ILLEGAL_CMD, or the command. -/
def Obligations.HostWriteFollowsTheRegisterMap : Prop :=
  ∀ (s : State) (rest : List Input) (off : BitVec 8) (n : AccessSize) (v : Word),
    step (s.setInputs (.access (.write off n v) :: rest)) =
      if n ≠ .four ∨ off.toNat % 4 ≠ 0 then .next (afterError s rest .badAccess (off.setWidth 32))
      else if isMapped off.toNat = false then .next (afterError s rest .unmapped (off.setWidth 32))
      else if off.toNat ≠ 0 then .next (afterError s rest .roWrite (off.setWidth 32))
      else match decode v with
        | .error _ => .next (afterError s rest .illegalCmd v)
        | .ok i => match exec i { s with inputs := rest } with
          | .next t => .next { t with responses := t.responses ++ [.okWrite] }
          | .fault f => .fault f
          | .refused r => .refused r

/-- R30: every access, read or write, of another size than 4 or at an offset that is no multiple of 4 raises
BusError(2, zext_32(off)) and has no other effect, whatever else is wrong with it; a legal one never raises
cause 2. -/
def Obligations.BadAccessIsCheckedFirst : Prop :=
  ∀ (s : State) (rest : List Input) (off : BitVec 8) (n : AccessSize) (a : Access),
    (a = .read off n ∨ ∃ v, a = .write off n v) →
    ((n ≠ .four ∨ off.toNat % 4 ≠ 0) →
      step (s.setInputs (.access a :: rest)) = .next (afterError s rest .badAccess (off.setWidth 32)))
    ∧ ((n = .four ∧ off.toNat % 4 = 0) →
      ∀ info, step (s.setInputs (.access a :: rest)) ≠ .next (afterError s rest .badAccess info))

/-- R74, R75: the codes of the table; an access that answers Err records the cause and the information of the table
and changes nothing else; an access the table has a cause for answers Err. -/
def Obligations.ErrorsFollowTheTableOfCauses : Prop :=
  (ErrCause.noError.code = 0 ∧ ErrCause.unmapped.code = 1 ∧ ErrCause.badAccess.code = 2 ∧ ErrCause.roWrite.code = 3
    ∧ ErrCause.illegalCmd.code = 4)
  ∧ ∀ (s t : State) (a : Access) (rest : List Input),
    s.inputs = .access a :: rest → step s = .next t →
    (t.responses = s.responses ++ [.err] → t = afterError s rest t.errCause t.errInfo ∧ causeOf a t.errCause t.errInfo)
    ∧ ∀ c info, causeOf a c info → t = afterError s rest c info

/-- R18: the register map: each register is read back from its offset, at the offset only, and the offsets with a
register are exactly the mapped ones. -/
def Obligations.RegisterMapIsOneToOne : Prop :=
  (∀ (off : BitVec 8) (r : Reg), regAt off = some r ↔ r.offset = off)
  ∧ ∀ off : BitVec 8, (∃ r, regAt off = some r) ↔ isMapped off.toNat = true

/-- R19, CMD: a read returns 0 and changes nothing; a write executes the command of its word, or raises cause 4
when the word matches none. -/
def Obligations.CmdRegister : Prop :=
  ∀ (s : State) (rest : List Input),
    step (s.setInputs (.access (.read 0x00 .four) :: rest))
      = .next { s with inputs := rest, responses := s.responses ++ [.okRead 0x00000000] }
    ∧ (∀ v : Word, (decode v).toOption = none →
        step (s.setInputs (.access (.write 0x00 .four v) :: rest)) = .next (afterError s rest .illegalCmd v))
    ∧ ∀ i : Instr, ∃ t, exec i { s with inputs := rest } = .next t
        ∧ step (s.setInputs (.access (.write 0x00 .four (encode i)) :: rest))
          = .next { t with responses := t.responses ++ [.okWrite] }

/-- R20, R21, R25, R26: ACC, COUNT, ERRINFO and FRAMEk read as their elements, FRAMEk with the lowest-numbered byte
most significant and zero before the first BUILD; a write to any of them raises cause 3 and changes nothing else. -/
def Obligations.ReadOnlyRegisters : Prop :=
  ∀ s : State,
    memRead 0x04 .four s = .ok s.acc ∧ memRead 0x08 .four s = .ok s.count ∧ memRead 0x18 .four s = .ok s.errInfo
    ∧ (∀ k : Fin 18, ∃ w, memRead (BitVec.ofNat 8 (0x40 + 4 * k.val)) .four s = .ok w
        ∧ w.toNat = s.frame[4 * k.val].toNat * 2 ^ 24 + s.frame[4 * k.val + 1].toNat * 2 ^ 16
            + s.frame[4 * k.val + 2].toNat * 2 ^ 8 + s.frame[4 * k.val + 3].toNat
        ∧ (FrameOk s → s.frameValid = false → w = 0x00000000))
    ∧ ∀ (off : BitVec 8) (v : Word) (rest : List Input),
        (off = 0x04 ∨ off = 0x08 ∨ off = 0x18 ∨ ∃ k : Fin 18, off = BitVec.ofNat 8 (0x40 + 4 * k.val)) →
        step (s.setInputs (.access (.write off .four v) :: rest)) = .next (afterError s rest .roWrite (off.setWidth 32))

/-- R22, RESULT: the complement of the folded ACC in bits [15:0], zero in bits [31:16]; the read changes neither ACC
nor COUNT; a write raises cause 3. -/
def Obligations.ResultRegister : Prop :=
  (∀ s : State, ∃ w, memRead 0x0C .four s = .ok w ∧ w.toNat = 0xFFFF - fold s.acc.toNat ∧ w.toNat ≤ 0xFFFF)
  ∧ (∀ (s : State) (rest : List Input), ∃ t, step (s.setInputs (.access (.read 0x0C .four) :: rest)) = .next t
      ∧ BlockSame s t)
  ∧ ∀ (s : State) (rest : List Input) (v : Word),
      step (s.setInputs (.access (.write 0x0C .four v) :: rest)) = .next (afterError s rest .roWrite 0x0000000C)

/-- R23, STATUS: its three fields and zero above them; a write raises cause 3; ODD changes with every ADDB and stays
with every ADDW, FRAME_VALID is set by BUILD, ERR follows ERRCAUSE. -/
def Obligations.StatusRegister : Prop :=
  (∀ s : State, ∃ w, memRead 0x10 .four s = .ok w
      ∧ w.toNat = s.count.toNat % 2 + 2 * s.frameValid.toNat + 4 * (if s.errCause.code = 0 then 0 else 1))
  ∧ (∀ (s : State) (rest : List Input) (v : Word),
      step (s.setInputs (.access (.write 0x10 .four v) :: rest)) = .next (afterError s rest .roWrite 0x00000010))
  ∧ (∀ (b : Byte) (s : State), ∃ t, exec (.addb b) s = .next t ∧ oddFlag t = !oddFlag s)
  ∧ (∀ (w : Half) (s : State), ∃ t, exec (.addw w) s = .next t ∧ oddFlag t = oddFlag s)
  ∧ ∀ s : State, ∃ t, exec .build s = .next t ∧ frameValidFlag t = true

/-- R24, ERRCAUSE: the code in bits [7:0], zero above it, one of 0 to 4; a write raises cause 3 and so overwrites
ERRCAUSE with 3. -/
def Obligations.ErrcauseRegister : Prop :=
  (∀ s : State, ∃ w, memRead 0x14 .four s = .ok w ∧ w.toNat = s.errCause.code.toNat ∧ w.toNat ≤ 4)
  ∧ ∀ (s : State) (rest : List Input) (v : Word), ∃ t,
      step (s.setInputs (.access (.write 0x14 .four v) :: rest)) = .next t
      ∧ t.errCause.code = 0x03 ∧ t.errInfo = 0x00000014 ∧ t.responses = s.responses ++ [.err]

/-- R34 (derived there): "Reads are idempotent: two reads with no write between them return the same value": two equal
reads get the same response, Ok with the same value or Err, with any reads that answer Ok between them; and with any
reads at all between them, erring ones too, at every offset but those of STATUS, ERRCAUSE and ERRINFO, which an erring
read between them can change (R75; log entry 17). -/
def Obligations.ReadsAreIdempotent : Prop :=
  ∀ (s : State) (rest : List Input) (off : BitVec 8) (n : AccessSize) (between : List (BitVec 8 × AccessSize)),
    (∀ p ∈ between, p.2 = .four ∧ isMapped p.1.toNat = true) ∨ (off ≠ 0x10 ∧ off ≠ 0x14 ∧ off ≠ 0x18) →
    ∃ (t : State) (r : Response) (mid : List Response),
      Host.Core.run Sys2Proof.core (between.length + 2)
          (s.setInputs (.access (.read off n) :: between.map (fun p => .access (.read p.1 p.2))
            ++ .access (.read off n) :: rest)) = .next t
      ∧ t.responses = s.responses ++ r :: mid ++ [r] ∧ mid.length = between.length ∧ t.inputs = rest

/-- R28: with `BASE mod 0x100 = 0`, an access inside the window reaches the block with byte offset `a - BASE`, which
is the low 8 bits of its address, and an access outside it never reaches the block. -/
def Obligations.WindowSelectsByAddress : Prop :=
  ∀ (base a : Nat) (n : AccessSize) (v : Word), baseOk base = true →
    (base ≤ a ∧ a < base + 0x100 →
      ∃ off : BitVec 8, off.toNat = a - base ∧ off.toNat = a % 0x100
        ∧ reachesBlock base (.read a n) = some (.read off n)
        ∧ reachesBlock base (.write a n v) = some (.write off n v))
    ∧ (¬(base ≤ a ∧ a < base + 0x100) →
      reachesBlock base (.read a n) = none ∧ reachesBlock base (.write a n v) = none)

/-! ### Whole-machine rules -/

/-- R12, R13: "Only CLR, ADDB, ADDW and reset write" ACC and COUNT. -/
def Obligations.OnlyStreamCommandsWriteTheStream : Prop :=
  ∀ s t : State, step s = .next t → ¬StreamSame s t →
    ∃ i rest, s.inputs = i :: rest ∧
      (startsStream i = true ∨ ∃ c, commandOf i = some c ∧ feeds c = true)

/-- R15, with R14 and R88: FRAME_VALID is 0 after reset and becomes 1 when BUILD completes; only BUILD and reset write
FRAME and FRAME_VALID, and only reset clears FRAME_VALID. -/
def Obligations.OnlyBuildAndResetWriteTheFrame : Prop :=
  State.reset.frameValid = false
  ∧ (∀ s : State, ∃ t, exec .build s = .next t ∧ t.frameValid = true)
  ∧ ∀ s t : State, step s = .next t →
    (¬FrameSame s t → ∃ i rest, s.inputs = i :: rest ∧ (i = .reset ∨ commandOf i = some .build))
    ∧ (s.frameValid = true → t.frameValid = false → ∃ rest, s.inputs = .reset :: rest)

/-- R16, R17, R77: only an erring access, CLRERR and reset write ERRCAUSE and ERRINFO. -/
def Obligations.OnlyErrorsClrerrAndResetWriteTheRecord : Prop :=
  ∀ s t : State, step s = .next t → ¬RecordSame s t →
    ∃ i rest, s.inputs = i :: rest ∧
      (i = .reset ∨ commandOf i = some .clrerr ∨ t.responses = s.responses ++ [.err])

/-- R14 to R17, R24, R69, R74: every step keeps the invariant: FRAME is all zero until FRAME_VALID is 1 and the Echo
Request image from then on, and ERRINFO holds what the table of causes says for the cause in ERRCAUSE. -/
def Obligations.StepKeepsFrameAndRecordConsistent : Prop :=
  ∀ s t : State, Inv s → step s = .next t → Inv t

/-- R89: the reset state meets the invariant. -/
def Obligations.ResetMeetsTheInvariant : Prop := Inv State.reset

/-! ### Reset -/

/-- R89: after the reset input every element has its reset value, whatever it was, no response is given (R88), and
the reads give what the table says. -/
def Obligations.ResetSetsEveryElement : Prop :=
  ∀ (s : State) (rest : List Input), ∃ t, step (s.setInputs (.reset :: rest)) = .next t
    ∧ t.acc = 0x00000000 ∧ t.count = 0x00000000 ∧ (∀ i : Fin 72, t.frame[i] = 0x00) ∧ t.frameValid = false
    ∧ t.errCause.code = 0x00 ∧ t.errInfo = 0x00000000
    ∧ t.inputs = rest ∧ t.responses = s.responses
    ∧ memRead 0x0C .four t = .ok 0x0000FFFF ∧ memRead 0x10 .four t = .ok 0x00000000
    ∧ ∀ k : Fin 18, memRead (BitVec.ofNat 8 (0x40 + 4 * k.val)) .four t = .ok 0x00000000

/-- R90 (derived there): the reset state is that of a block on which CLR and CLRERR have just been performed and
BUILD never has. -/
def Obligations.ResetIsAClearedBlock : Prop :=
  ∀ s : State, Inv s → s.frameValid = false →
    execAll [.clr, .clrerr] s = .next { State.reset with inputs := s.inputs, responses := s.responses }

/-! ### The assembler -/

/-- R52: each line is the one access of the table, a command mnemonic being a 4-byte write of its word to offset 0x00,
and an operand out of range is refused, not truncated. The range of the operand of `WR.n` is the model's reading
(log entry 10, DEDUCED). -/
def Obligations.AssemblerLinesAreTheirAccesses : Prop :=
  (∀ n : Nat, assembleLine (.addb n) =
      if n ≤ 0xFF then some [.write 0x00 .four (BitVec.ofNat 32 (0x02000000 + n))] else none)
  ∧ (∀ n : Nat, assembleLine (.addw n) =
      if n ≤ 0xFFFF then some [.write 0x00 .four (BitVec.ofNat 32 (0x03000000 + n))] else none)
  ∧ assembleLine .nop = some [.write 0x00 .four 0x00000000]
  ∧ assembleLine .clr = some [.write 0x00 .four 0x01000000]
  ∧ assembleLine .build = some [.write 0x00 .four 0x04000000]
  ∧ assembleLine .clrerr = some [.write 0x00 .four 0x05000000]
  ∧ (∀ r : Reg, assembleLine (.rd (.reg r)) = some [.read r.offset .four])
  ∧ (∀ off : Nat, assembleLine (.rd (.literal off)) =
      if off ≤ 0xFF then some [.read (BitVec.ofNat 8 off) .four] else none)
  ∧ (∀ (r : Reg) (n : Nat), assembleLine (.wr (.reg r) n) =
      if n ≤ 0xFFFFFFFF then some [.write r.offset .four (BitVec.ofNat 32 n)] else none)
  ∧ (∀ off n : Nat, assembleLine (.wr (.literal off) n) =
      if off ≤ 0xFF ∧ n ≤ 0xFFFFFFFF then some [.write (BitVec.ofNat 8 off) .four (BitVec.ofNat 32 n)] else none)
  ∧ ∀ size : AccessSize, size ≠ .four →
      (∀ off : Nat, assembleLine (.rdNarrow size off) =
        if off ≤ 0xFF then some [.read (BitVec.ofNat 8 off) size] else none)
      ∧ ∀ off n : Nat, assembleLine (.wrNarrow size off n) =
        if off ≤ 0xFF ∧ n < 2 ^ (8 * size.bytes) then some [.write (BitVec.ofNat 8 off) size (BitVec.ofNat 32 n)]
        else none

/-- R53: ADDBYTES "gives the same state as `n` separate `ADDB` lines at every stream position": the block's state
after its expansion is the state after the ADDB lines, from any state. -/
def Obligations.AddBytesIsTheAddbLines : Prop :=
  ∀ bs : List Byte, ∃ l m, assembleLine (.addBytes (bs.map BitVec.toNat)) = some l
    ∧ (bs.mapM fun b => assembleLine (.addb b.toNat)) = some m
    ∧ ∀ (s : State) (rest : List Input), ∃ t u : State,
        Host.Core.run Sys2Proof.core l.length (s.setInputs (l.map .access ++ rest)) = .next t
        ∧ Host.Core.run Sys2Proof.core bs.length (s.setInputs (m.flatten.map .access ++ rest)) = .next u
        ∧ BlockSame t u ∧ t.inputs = rest ∧ u.inputs = rest

/-- R53, R56: the pseudo-instruction CSUM ends with a read that answers the Internet checksum of its bytes, from any
state; every other response is Ok. -/
def Obligations.CsumPseudoReadsTheChecksum : Prop :=
  ∀ bs : List Byte, ∃ l, assembleLine (.csum (bs.map BitVec.toNat)) = some l
    ∧ ∀ (s : State) (rest : List Input), ∃ t : State,
        Host.Core.run Sys2Proof.core l.length (s.setInputs (l.map .access ++ rest)) = .next t
        ∧ t.inputs = rest
        ∧ t.responses = s.responses ++ List.replicate (l.length - 1) .okWrite
            ++ [.okRead ((csum bs).setWidth 32)]
end

