-- ==== Sys2Proof/Laws/Decode.lean ====
section
/-! SUPPORT. The fields of a command word, and a command's word, as numbers (spec 30_encoding.md R43, R47). -/

namespace Sys2Proof

/-- Concatenation as arithmetic (R7: `{a, b}`, the first operand most significant). -/
theorem append_toNat {m n : Nat} (a : BitVec m) (b : BitVec n) :
    (a ++ b).toNat = a.toNat * 2 ^ n + b.toNat := by
  rw [BitVec.toNat_append, ← Nat.shiftLeft_add_eq_or_of_lt b.isLt, Nat.shiftLeft_eq]

theorem opField_toNat (v : Word) : (opField v).toNat = v.toNat / 2 ^ 24 := by
  have := v.isLt
  simp only [opField, BitVec.extractLsb'_toNat, Nat.shiftRight_eq_div_pow]
  omega

theorem rsvField_toNat (v : Word) : (rsvField v).toNat = v.toNat / 2 ^ 16 % 256 := by
  simp only [rsvField, BitVec.extractLsb'_toNat, Nat.shiftRight_eq_div_pow]

theorem dataField_toNat (v : Word) : (dataField v).toNat = v.toNat % 65536 := by
  simp only [dataField, BitVec.extractLsb'_toNat, Nat.shiftRight_eq_div_pow]
  omega

theorem dataHigh_toNat (v : Word) : (dataHigh v).toNat = v.toNat / 256 % 256 := by
  simp only [dataHigh, BitVec.extractLsb'_toNat, Nat.shiftRight_eq_div_pow]

theorem dataLow_toNat (v : Word) : (dataLow v).toNat = v.toNat % 256 := by
  simp only [dataLow, BitVec.extractLsb'_toNat, Nat.shiftRight_eq_div_pow]
  omega

/-- A command's word: its opcode in bits [31:24], its operand in bits [15:0]. -/
theorem encode_toNat (i : Instr) : (encode i).toNat = (opcode i).toNat * 2 ^ 24 + (dataOf i).toNat := by
  simp only [encode, append_toNat]
  simp
  ring

theorem encode_nop_toNat : (encode .nop).toNat = 0x00000000 := rfl
theorem encode_clr_toNat : (encode .clr).toNat = 0x01000000 := rfl
theorem encode_build_toNat : (encode .build).toNat = 0x04000000 := rfl
theorem encode_clrerr_toNat : (encode .clrerr).toNat = 0x05000000 := rfl

theorem encode_addb_toNat (b : Byte) : (encode (.addb b)).toNat = 0x02000000 + b.toNat := by
  rw [encode_toNat, dataOf, append_toNat]; simp [opcode]

theorem encode_addw_toNat (w : Half) : (encode (.addw w)).toNat = 0x03000000 + w.toNat := by
  rw [encode_toNat]; simp [opcode, dataOf]

end Sys2Proof
end

