-- ==== Sys2Proof/Laws/Formatter.lean ====
section
/-! SUPPORT. The image that BUILD writes, byte by byte (spec 41_formatter.md R67 to R69). -/

namespace Sys2Proof.Machine

/-- R69: the checksum BUILD stores is the constant `0xF7FF`. -/
theorem imageChecksum_eq : imageChecksum = 0xF7FF := by decide

/-- Byte `i` of FRAME after BUILD is byte `i` of the image with that checksum. -/
theorem echoFrame_byte (i : Fin 72) : echoFrame[i] = (imageWith 0xF7FF).getD i.val 0x00 := by
  rw [← imageChecksum_eq]
  simp [echoFrame, echoImage]

/-- The header of the image, and zero after it. -/
theorem imageWith_eq (c : Half) :
    imageWith c = [0x08, 0x00, firstByte c, secondByte c] ++ List.replicate 68 0x00 := rfl

end Sys2Proof.Machine
end

