-- ==== Sys2Proof/Laws/State.lean ====
section
/-! SUPPORT. One lemma per field per writer of the state (Machine/Ops.lean), so that no proof unfolds a record update. -/

namespace Sys2Proof.Machine

variable (s : State)

/-! ### setStream -/

@[simp] theorem setStream_acc (a c : Word) : (s.setStream a c).acc = a := rfl
@[simp] theorem setStream_count (a c : Word) : (s.setStream a c).count = c := rfl
@[simp] theorem setStream_frame (a c : Word) : (s.setStream a c).frame = s.frame := rfl
@[simp] theorem setStream_frameValid (a c : Word) : (s.setStream a c).frameValid = s.frameValid := rfl
@[simp] theorem setStream_errCause (a c : Word) : (s.setStream a c).errCause = s.errCause := rfl
@[simp] theorem setStream_errInfo (a c : Word) : (s.setStream a c).errInfo = s.errInfo := rfl
@[simp] theorem setStream_inputs (a c : Word) : (s.setStream a c).inputs = s.inputs := rfl
@[simp] theorem setStream_responses (a c : Word) : (s.setStream a c).responses = s.responses := rfl

/-! ### setFrame -/

@[simp] theorem setFrame_acc (f : Vector Byte 72) (b : Bool) : (s.setFrame f b).acc = s.acc := rfl
@[simp] theorem setFrame_count (f : Vector Byte 72) (b : Bool) : (s.setFrame f b).count = s.count := rfl
@[simp] theorem setFrame_frame (f : Vector Byte 72) (b : Bool) : (s.setFrame f b).frame = f := rfl
@[simp] theorem setFrame_frameValid (f : Vector Byte 72) (b : Bool) : (s.setFrame f b).frameValid = b := rfl
@[simp] theorem setFrame_errCause (f : Vector Byte 72) (b : Bool) : (s.setFrame f b).errCause = s.errCause := rfl
@[simp] theorem setFrame_errInfo (f : Vector Byte 72) (b : Bool) : (s.setFrame f b).errInfo = s.errInfo := rfl
@[simp] theorem setFrame_inputs (f : Vector Byte 72) (b : Bool) : (s.setFrame f b).inputs = s.inputs := rfl
@[simp] theorem setFrame_responses (f : Vector Byte 72) (b : Bool) : (s.setFrame f b).responses = s.responses := rfl

/-! ### setErrorRecord -/

@[simp] theorem setErrorRecord_acc (c : ErrCause) (w : Word) : (s.setErrorRecord c w).acc = s.acc := rfl
@[simp] theorem setErrorRecord_count (c : ErrCause) (w : Word) : (s.setErrorRecord c w).count = s.count := rfl
@[simp] theorem setErrorRecord_frame (c : ErrCause) (w : Word) : (s.setErrorRecord c w).frame = s.frame := rfl
@[simp] theorem setErrorRecord_frameValid (c : ErrCause) (w : Word) :
    (s.setErrorRecord c w).frameValid = s.frameValid := rfl
@[simp] theorem setErrorRecord_errCause (c : ErrCause) (w : Word) : (s.setErrorRecord c w).errCause = c := rfl
@[simp] theorem setErrorRecord_errInfo (c : ErrCause) (w : Word) : (s.setErrorRecord c w).errInfo = w := rfl
@[simp] theorem setErrorRecord_inputs (c : ErrCause) (w : Word) : (s.setErrorRecord c w).inputs = s.inputs := rfl
@[simp] theorem setErrorRecord_responses (c : ErrCause) (w : Word) :
    (s.setErrorRecord c w).responses = s.responses := rfl

/-! ### setInputs -/

@[simp] theorem setInputs_acc (l : List Input) : (s.setInputs l).acc = s.acc := rfl
@[simp] theorem setInputs_count (l : List Input) : (s.setInputs l).count = s.count := rfl
@[simp] theorem setInputs_frame (l : List Input) : (s.setInputs l).frame = s.frame := rfl
@[simp] theorem setInputs_frameValid (l : List Input) : (s.setInputs l).frameValid = s.frameValid := rfl
@[simp] theorem setInputs_errCause (l : List Input) : (s.setInputs l).errCause = s.errCause := rfl
@[simp] theorem setInputs_errInfo (l : List Input) : (s.setInputs l).errInfo = s.errInfo := rfl
@[simp] theorem setInputs_inputs (l : List Input) : (s.setInputs l).inputs = l := rfl
@[simp] theorem setInputs_responses (l : List Input) : (s.setInputs l).responses = s.responses := rfl

/-! ### respond -/

@[simp] theorem respond_acc (r : Response) : (s.respond r).acc = s.acc := rfl
@[simp] theorem respond_count (r : Response) : (s.respond r).count = s.count := rfl
@[simp] theorem respond_frame (r : Response) : (s.respond r).frame = s.frame := rfl
@[simp] theorem respond_frameValid (r : Response) : (s.respond r).frameValid = s.frameValid := rfl
@[simp] theorem respond_errCause (r : Response) : (s.respond r).errCause = s.errCause := rfl
@[simp] theorem respond_errInfo (r : Response) : (s.respond r).errInfo = s.errInfo := rfl
@[simp] theorem respond_inputs (r : Response) : (s.respond r).inputs = s.inputs := rfl
@[simp] theorem respond_responses (r : Response) : (s.respond r).responses = s.responses ++ [r] := rfl

end Sys2Proof.Machine
end

