-- ==== Sys2Proof/Laws/Ops.lean ====
section
/-! SUPPORT. One lemma per shared operation of Machine/Ops.lean, saying what it does in numbers. -/

namespace Sys2Proof.Machine

/-! ### fold -/

theorem foldStep_eq (x : Nat) : foldStep x = x % 0x10000 + x / 0x10000 := by
  have h := Nat.and_two_pow_sub_one_eq_mod x 16
  simp only [foldStep, Nat.shiftRight_eq_div_pow]
  norm_num at h ⊢
  exact h

theorem foldStep_lt {x : Nat} (h : x > 0xFFFF) : foldStep x < x := by
  rw [foldStep_eq]; omega

theorem foldRounds_of_le (fuel : Nat) {x : Nat} (h : x ≤ 0xFFFF) : foldRounds fuel x = x := by
  cases fuel <;> simp [foldRounds, h]

/-- More rounds than needed change nothing. -/
theorem foldRounds_enough : ∀ (fuel x : Nat), x ≤ fuel → foldRounds fuel x = fold x := by
  intro fuel
  induction fuel using Nat.strong_induction_on with
  | _ fuel ih =>
    intro x hx
    by_cases hs : x ≤ 0xFFFF
    · rw [fold, foldRounds_of_le _ hs, foldRounds_of_le _ hs]
    · have hgt : x > 0xFFFF := by omega
      have hlt := foldStep_lt hgt
      obtain ⟨n, rfl⟩ : ∃ n, fuel = n + 1 := ⟨fuel - 1, by omega⟩
      obtain ⟨m, rfl⟩ : ∃ m, x = m + 1 := ⟨x - 1, by omega⟩
      simp only [fold, foldRounds, if_pos hgt]
      rw [ih n (by omega) _ (by omega)]
      rcases Nat.lt_or_ge m (n + 1) with hm | hm
      · rw [ih m hm _ (by omega)]
      · omega

/-- The loop of R55. -/
theorem fold_unfold (x : Nat) : fold x = if x > 0xFFFF then fold (foldStep x) else x := by
  by_cases h : x > 0xFFFF
  · obtain ⟨m, rfl⟩ : ∃ m, x = m + 1 := ⟨x - 1, by omega⟩
    rw [if_pos h, fold, foldRounds, if_pos h]
    exact foldRounds_enough _ _ (by have := foldStep_lt h; omega)
  · rw [if_neg h, fold, foldRounds_of_le _ (by omega)]

/-! ### The accumulator -/

theorem oddFlag_eq (s : State) : oddFlag s = decide (s.count.toNat % 2 = 1) := by
  rw [oddFlag, BitVec.getLsbD, Nat.testBit_zero]

theorem placedByte_eq (s : State) (b : Byte) :
    placedByte s b = if s.count.toNat % 2 = 1 then b.toNat else b.toNat * 256 := by
  simp [placedByte, oddFlag_eq, Nat.shiftLeft_eq]

/-- A stream byte is at most `0xFF00` where it goes. -/
theorem placedByte_le (s : State) (b : Byte) : placedByte s b ≤ 0xFF00 := by
  have := b.isLt
  rw [placedByte_eq]; split <;> omega

/-- The end-around addition by its two cases. -/
theorem endAroundAdd_toNat (a : Word) {v : Nat} (h : v ≤ 0xFFFF) :
    (endAroundAdd a v).toNat = if a.toNat + v < 2 ^ 32 then a.toNat + v else a.toNat + v - 0xFFFFFFFF := by
  have := a.isLt
  simp only [endAroundAdd, BitVec.toNat_ofNat]
  split <;> omega

@[simp] theorem feed_acc (b : Byte) (s : State) : (feed b s).acc = endAroundAdd s.acc (placedByte s b) := rfl
@[simp] theorem feed_count (b : Byte) (s : State) : (feed b s).count = s.count + 1 := rfl
@[simp] theorem feed_frame (b : Byte) (s : State) : (feed b s).frame = s.frame := rfl
@[simp] theorem feed_frameValid (b : Byte) (s : State) : (feed b s).frameValid = s.frameValid := rfl
@[simp] theorem feed_errCause (b : Byte) (s : State) : (feed b s).errCause = s.errCause := rfl
@[simp] theorem feed_errInfo (b : Byte) (s : State) : (feed b s).errInfo = s.errInfo := rfl
@[simp] theorem feed_inputs (b : Byte) (s : State) : (feed b s).inputs = s.inputs := rfl
@[simp] theorem feed_responses (b : Byte) (s : State) : (feed b s).responses = s.responses := rfl

/-! ### The reads of the registers that hold the stream's view -/

theorem memRead_count (s : State) : memRead 0x08 .four s = .ok s.count := rfl

theorem memRead_result (s : State) :
    memRead 0x0C .four s = .ok ((complement16 (fold s.acc.toNat)).setWidth 32) := rfl

theorem memRead_status (s : State) : memRead 0x10 .four s = .ok (statusWord s) := rfl

theorem memRead_errCause (s : State) : memRead 0x14 .four s = .ok (s.errCause.code.setWidth 32) := rfl

/-! ### The checks of an access -/

theorem legalAccess_iff (off : BitVec 8) (n : AccessSize) :
    legalAccess off n = true ↔ n = .four ∧ off.toNat % 4 = 0 := by
  cases n <;> simp [legalAccess, AccessSize.bytes]

/-- The one accepted write: a legal word to CMD (R32). -/
theorem acceptWrite_ok {off : BitVec 8} {n : AccessSize} {v : Word} {i : Instr} :
    acceptWrite off n v = .ok i ↔ off = 0x00 ∧ n = .four ∧ decode v = .ok i := by
  by_cases hl : legalAccess off n = true
  · have ⟨hn, _⟩ := (legalAccess_iff off n).1 hl
    by_cases h0 : off = 0x00
    · subst h0
      subst hn
      simp only [acceptWrite, if_pos hl, regAt, if_true, true_and]
      cases decode v <;> simp
    · have hr : ∀ r, regAt off = some r → r ≠ .cmd := by
        intro r h he
        subst he
        simp only [regAt, if_neg h0] at h
        repeat' split at h
        all_goals simp at h
      simp only [acceptWrite, if_pos hl, h0, false_and, iff_false]
      split
      · simp
      · rename_i r h
        simp [hr r h]
  · have : ¬(off = 0x00 ∧ n = .four ∧ decode v = .ok i) := by
      rintro ⟨rfl, rfl, -⟩
      exact hl rfl
    exact iff_of_false (by simp [acceptWrite, hl]) this

end Sys2Proof.Machine
end

