-- ==== Sys2Proof/Laws/PerInstr.lean ====
section
/-! SUPPORT. One lemma per command: its word has its opcode in OP and zero in RSV (spec 30_encoding.md R43 to R45). -/

namespace Sys2Proof.Laws.EncodedFields

/-- The OP field of the command's word is its opcode and the RSV field is zero. -/
def Statement (i : Instr) : Prop := opField (encode i) = opcode i ∧ rsvField (encode i) = 0x00

/-- The one argument that serves every command. -/
theorem fields_of_encode (i : Instr) : Statement i := by
  have hd := (dataOf i).isLt
  constructor <;> rw [← BitVec.toNat_inj]
  · rw [opField_toNat, encode_toNat]; omega
  · rw [rsvField_toNat, encode_toNat]; simp; omega

theorem nop : Statement .nop := fields_of_encode _
theorem clr : Statement .clr := fields_of_encode _
theorem addb (b : Byte) : Statement (.addb b) := fields_of_encode _
theorem addw (w : Half) : Statement (.addw w) := fields_of_encode _
theorem build : Statement .build := fields_of_encode _
theorem clrerr : Statement .clrerr := fields_of_encode _

end Sys2Proof.Laws.EncodedFields
end

