-- ==== Sys2Proof/Laws/Step.lean ====
section
/-! SUPPORT. What one step can do, said once: one lemma per kind of input, and the inversion of `step`. -/

namespace Sys2Proof.Machine

/-- What each command does (R59 to R61, R68, R72, R73): the state after it. -/
def effect (i : Instr) (s : State) : State :=
  match i with
  | .nop => s
  | .clr => s.setStream 0 0
  | .addb b => feed b s
  | .addw w => feed (secondByte w) (feed (firstByte w) s)
  | .build => s.setFrame echoFrame true
  | .clrerr => clearErrorRecord s

/-- Every command answers a next state, `effect`. -/
theorem exec_eq (i : Instr) (s : State) : exec i s = .next (effect i s) := by
  cases i <;> rfl

theorem effect_inputs (i : Instr) (s : State) : (effect i s).inputs = s.inputs := by cases i <;> rfl

theorem effect_responses (i : Instr) (s : State) : (effect i s).responses = s.responses := by cases i <;> rfl

theorem step_idle {s : State} (h : s.inputs = []) : step s = .next s := by
  simp only [step, h]

theorem step_cons {s : State} {i : Input} {rest : List Input} (h : s.inputs = i :: rest) :
    step s = perform i (s.setInputs rest) := by
  simp only [step, h]

theorem hostRead_eq (off : BitVec 8) (n : AccessSize) (s : State) :
    hostRead off n s = .next (match memRead off n s with
      | .ok v => s.respond (.okRead v)
      | .error e => raiseBusError e s) := by
  unfold hostRead
  cases memRead off n s <;> rfl

theorem hostWrite_eq (off : BitVec 8) (n : AccessSize) (v : Word) (s : State) :
    hostWrite off n v s = .next (match acceptWrite off n v with
      | .ok i => (effect i s).respond .okWrite
      | .error e => raiseBusError e s) := by
  unfold hostWrite
  cases acceptWrite off n v <;> simp [exec_eq, respondAfter]

/-- Everything a step can do, by the input it takes. -/
theorem step_inversion {s t : State} (h : step s = .next t) :
    (s.inputs = [] ∧ t = s)
    ∨ (∃ rest, s.inputs = .reset :: rest ∧ t = resetBlock (s.setInputs rest))
    ∨ (∃ off n rest v, s.inputs = .access (.read off n) :: rest
        ∧ memRead off n (s.setInputs rest) = .ok v ∧ t = (s.setInputs rest).respond (.okRead v))
    ∨ (∃ off n rest e, s.inputs = .access (.read off n) :: rest
        ∧ memRead off n (s.setInputs rest) = .error e ∧ t = raiseBusError e (s.setInputs rest))
    ∨ (∃ v i rest, s.inputs = .access (.write 0x00 .four v) :: rest
        ∧ decode v = .ok i ∧ t = (effect i (s.setInputs rest)).respond .okWrite)
    ∨ (∃ off n v rest e, s.inputs = .access (.write off n v) :: rest
        ∧ acceptWrite off n v = .error e ∧ t = raiseBusError e (s.setInputs rest)) := by
  rcases hi : s.inputs with _ | ⟨i, rest⟩
  · rw [step_idle hi] at h
    cases h; simp
  · rw [step_cons hi] at h
    rcases i with (⟨off, n⟩ | ⟨off, n, v⟩) | _
    · simp only [perform, hostRead_eq] at h
      cases hm : memRead off n (s.setInputs rest) with
      | ok v => rw [hm] at h; cases h; simp [hm]
      | error e => rw [hm] at h; cases h; simp [hm]
    · simp only [perform, hostWrite_eq] at h
      cases ha : acceptWrite off n v with
      | ok i =>
        obtain ⟨rfl, rfl, hd⟩ := acceptWrite_ok.1 ha
        rw [ha] at h; cases h
        simp [hd]
      | error e => rw [ha] at h; cases h; simp [ha]
    · cases h; simp

end Sys2Proof.Machine
end

