-- ==== Sys2Proof/Tests/Slice0.lean ====
section
/-! SUPPORT. The model's own tests. Expected values are those of spec 95_test_vectors.md and of the rules' examples,
none is the model's own answer. Then one witness per statement that has hypotheses. -/

namespace Sys2Proof.Tests

open Sys2Proof.Machine

/-! ### WellFormed: a term each check refuses, and its largest good one -/

theorem test_wf_addw : Instr.wf (.addw 0xFFFF) = true := by decide
theorem test_imm8_refused : imm8Ok 0x100 = false ∧ imm8Ok 0xFF = true := by decide
theorem test_imm16_refused : imm16Ok 0x10000 = false ∧ imm16Ok 0xFFFF = true := by decide
theorem test_imm32_refused : imm32Ok 0x100000000 = false ∧ imm32Ok 0xFFFFFFFF = true := by decide
theorem test_offset_refused : offsetOk 0x100 = false ∧ offsetOk 0xFF = true := by decide
theorem test_base_refused : baseOk 0x1080 = false ∧ baseOk 0x1000 = true := by decide

/-! ### Decoding: every command's word, written out bit by bit from the patterns of R47 -/

theorem test_decode_nop : decode 0b00000000000000000000000000000000 = .ok .nop := by decide
theorem test_decode_clr : decode 0b00000001000000000000000000000000 = .ok .clr := by decide
theorem test_decode_addb : decode 0b00000010000000000000000010100101 = .ok (.addb 0xA5) := by decide
theorem test_decode_addw : decode 0b00000011000000001010010100111100 = .ok (.addw 0xA53C) := by decide
theorem test_decode_build : decode 0b00000100000000000000000000000000 = .ok .build := by decide
theorem test_decode_clrerr : decode 0b00000101000000000000000000000000 = .ok .clrerr := by decide

/-- 95_test_vectors.md 2.5: each illegal word is refused by the check it fails. -/
theorem test_decode_illegal :
    decode 0x00000001 = .error .dataNotZero ∧ decode 0x00800000 = .error .reservedBitsSet
    ∧ decode 0x02000100 = .error .dataHighNotZero ∧ decode 0x03010000 = .error .reservedBitsSet
    ∧ decode 0x04000001 = .error .dataNotZero ∧ decode 0x06000000 = .error .unassignedOpcode
    ∧ decode 0xFF000000 = .error .unassignedOpcode := by decide

/-- The table's numbering: the low bits of the row come first, and a row of the table is 32 bits. -/
theorem test_decodeTableWord :
    decodeTableWord 32 0x0300F203 = some (.addw 0xF203) ∧ decodeTableWord 32 0x06000000 = none
    ∧ decodeTableWord 40 0x0300F203 = none := by decide

/-! ### The commands: start states and results of 95_test_vectors.md 2.2 to 2.4 -/

/-- The reset state with a given ACC and COUNT. -/
def stream (acc count : Word) : State := { State.reset with acc := acc, count := count }

/-- A field of the state a command answers; none if it does not answer one. -/
def after {α : Type} (o : Host.Outcome State Fault Refusal) (f : State → α) : Option α :=
  match o with
  | .next t => some (f t)
  | .fault _ => none
  | .refused _ => none

/-- CT1. -/
theorem test_nop_keeps_error :
    after (exec .nop { stream 0x1234 2 with errCause := .roWrite }) (fun t => (t.acc, t.count, t.errCause))
      = some (0x1234, 2, .roWrite) := by decide

/-- CK22. -/
theorem test_clr : after (exec .clr (stream 0x0002DDF0 8)) (fun t => (t.acc, t.count)) = some (0, 0) := by decide

/-- CK16, the carry on the high half. -/
theorem test_addb_carry : after (exec (.addb 0xFF) (stream 0xFFFFFFFF 0)) (fun t => (t.acc, t.count))
    = some (0x0000FF00, 1) := by decide

/-- CK20, COUNT wraps at an odd position. -/
theorem test_addb_count_wraps : after (exec (.addb 0x01) (stream 0x12345678 0xFFFFFFFF)) (fun t => (t.acc, t.count))
    = some (0x12345679, 0) := by decide

/-- CK11, ADDW at an odd position. -/
theorem test_addw_odd : after (exec (.addw 0x3456) (stream 0x1200 1)) (fun t => (t.acc, t.count))
    = some (0x00006834, 3) := by decide

/-- CK18, a carry on the first byte and none on the second. -/
theorem test_addw_carry : after (exec (.addw 0xFFFF) (stream 0xFFFFFFFF 0)) (fun t => (t.acc, t.count))
    = some (0x0000FFFF, 2) := by decide

/-- FM2. -/
theorem test_build : after (exec .build (stream 0x0000AB00 1))
      (fun t => (readReg t (.frame 0), readReg t (.frame 17), t.acc, t.count, readReg t .status))
    = some (0x0800F7FF, 0, 0x0000AB00, 1, 0x00000003) := by decide

/-- CT2. -/
theorem test_clrerr : after (exec .clrerr { stream 0 0 with errCause := .roWrite, errInfo := 0x04 })
      (fun t => (t.errCause, t.errInfo, readReg t .status)) = some (.noError, 0, 0) := by decide

/-! ### The functions: 95_test_vectors.md 2.1 -/

theorem test_fold : fold 0x0002DDF0 = 0xDDF2 ∧ fold 0x0001FFFF = 0x0001 ∧ fold 0xFFFFFFFF = 0xFFFF := by decide

theorem test_csum : csum [0x12, 0x34, 0x56] = 0x97CB ∧ csum [0xFF] = 0x00FF ∧ csum [] = 0xFFFF := by decide

/-! ### Accesses: 95_test_vectors.md 2.6, and one step from reset -/

/-- What one access from the reset state answers and records. -/
def access (a : Access) : Option (List Response × ErrCause × Word) :=
  after (step { State.reset with inputs := [.access a] }) fun t => (t.responses, t.errCause, t.errInfo)

/-- BE1, BE3. -/
theorem test_reads : access (.read 0x00 .four) = some ([.okRead 0], .noError, 0)
    ∧ access (.read 0x88 .four) = some ([.err], .unmapped, 0x88) := by decide

/-- BE5, BE6. -/
theorem test_bad_access : access (.read 0x21 .two) = some ([.err], .badAccess, 0x21)
    ∧ access (.read 0x02 .four) = some ([.err], .badAccess, 0x02) := by decide

/-- BE9, BE13. -/
theorem test_writes : access (.write 0x04 .four 0x06000000) = some ([.err], .roWrite, 0x04)
    ∧ access (.write 0x00 .four 0x01010000) = some ([.err], .illegalCmd, 0x01010000) := by decide

/-- The host's way to place a command: it is the very next step. -/
theorem test_withFetchWord : after (step (State.reset.withFetchWord 32 0x0300F203))
    (fun t => (t.acc, t.count, t.responses, t.inputs)) = some (0xF203, 2, [.okWrite], []) := by decide

/-- RS1. -/
theorem test_reset : after (step { stream 5 7 with frameValid := true, inputs := [.reset] })
    (fun t => (t.acc, t.count, t.frameValid, readReg t .result)) = some (0, 0, false, 0x0000FFFF) := by decide

/-- R53: an odd ADDBYTES. -/
theorem test_addbytes : assembleLine (.addBytes [0x12, 0x34, 0x56])
    = some [.write 0x00 .four 0x03001234, .write 0x00 .four 0x02000056] := by decide

/-- R53: REP, with no copies and with two. -/
theorem test_rep : assemble (.rep 2 (.line .nop .done) (.rep 0 (.line .clr .done) .done))
    = some [.write 0x00 .four 0x00000000, .write 0x00 .four 0x00000000] := by decide

/-! ### Witnesses: a concrete state and operands that meet all the hypotheses of a statement -/

/-- A state whose stream is the one byte `AB` and whose next input is the given one. -/
def oneByte (i : Input) : State := { stream 0xAB00 1 with inputs := [i] }

/-- The write of a command word. -/
def cmd (v : Word) : Input := .access (.write 0x00 .four v)

theorem oneByte_tracks (i : Input) : TracksStream (oneByte i) [0xAB] :=
  ⟨by simp [oneByte, stream], fun h => absurd h (by decide), fun _ => ⟨by simp [oneByte, stream], by simp [oneByte, stream]; decide⟩⟩

theorem witness_OpcodeMapRowsSelectTheCommand :
    (⟨"ADDB", 0x02000000, 0xFFFFFF00⟩ : OpcodeRow) ∈ opcodeMap
    ∧ (0x020000FF : Word) &&& 0xFFFFFF00 = 0x02000000 := by decide

theorem witness_LegalWordsAreEncodings : decode 0x0300FFFF = .ok (.addw 0xFFFF) := by decide

theorem witness_StepRunsTheDecodedCommand :
    (oneByte (cmd 0x020000CD)).inputs = .access (.write 0x00 .four 0x020000CD) :: []
    ∧ decode 0x020000CD = .ok (.addb 0xCD) := by decide

theorem witness_NoInputNoChange : (stream 0xAB00 1).inputs = [] := by decide

theorem witness_NoDataValueCausesAnError : Instr.addw 0xFFFF ≠ .clrerr := by decide

theorem witness_NopChangesNothing :
    (0x00FFFFFF : Word).toNat / 2 ^ 24 = 0x00 ∧ (0x00FFFFFF : Word) ≠ 0x00000000 := by decide

theorem witness_ClrStartsANewStream :
    ((0x01000001 : Word).toNat / 2 ^ 24 = 0x01 ∧ (0x01000001 : Word) ≠ 0x01000000)
    ∧ State.reset.acc = 0x00000000 ∧ State.reset.count = 0x00000000 := by decide

theorem witness_AddbFeedsOneByte :
    (0x02000100 : Word).toNat / 2 ^ 24 = 0x02 ∧ 2 ^ 8 ≤ (0x02000100 : Word).toNat % 2 ^ 24 := by decide

theorem witness_AddwFeedsTwoBytes :
    (0x03010000 : Word).toNat / 2 ^ 24 = 0x03 ∧ (0x03010000 : Word).toNat / 2 ^ 16 % 2 ^ 8 ≠ 0 := by decide

theorem witness_BuildFormatsTheEchoRequest :
    (0x04000001 : Word).toNat / 2 ^ 24 = 0x04 ∧ (0x04000001 : Word) ≠ 0x04000000 := by decide

theorem witness_ClrerrClearsTheErrorRecord :
    ((0x05000001 : Word).toNat / 2 ^ 24 = 0x05 ∧ (0x05000001 : Word) ≠ 0x05000000)
    ∧ State.reset.errCause.code = 0x00 ∧ State.reset.errInfo = 0x00000000 := by decide

/-- The last clause of ClrerrClearsTheErrorRecord: CLRERR does change the record. -/
theorem witness_ClrerrIsNeeded :
    ∃ u, exec .clrerr { State.reset with errCause := .roWrite } = .next u ∧ u.errCause.code ≠ ErrCause.roWrite.code :=
  ⟨_, rfl, by decide⟩

theorem witness_RepeatedCommands : Instr.build = .clr ∨ Instr.build = .build ∨ Instr.build = .nop ∨ Instr.build = .clrerr := by
  decide

theorem witness_BuildAndTheStreamDoNotInteract : Instr.addb 0xAB = .clr ∨ feeds (.addb 0xAB) = true := by decide

theorem witness_FoldIsTheSumModuloFFFF :
    0xFFFF ≤ 0xFFFF ∧ 0 < 0xFFFF ∧ (1 ≤ 0xFFFF ∧ 0xFFFF ≤ 0xFFFF ∧ 0xFFFF % 0xFFFF = 0x1FFFE % 0xFFFF)
    ∧ 0xFFFFFFFF ≤ 0xFFFFFFFF := by decide

theorem witness_ChecksumVerifiesItself : ([0x08, 0x00] : List Byte).length % 2 = 0 := by decide

theorem witness_StepKeepsTheStreamSum :
    TracksStream (oneByte (cmd 0x020000CD)) [0xAB] ∧ ∃ t, step (oneByte (cmd 0x020000CD)) = .next t :=
  ⟨oneByte_tracks _, _, rfl⟩

theorem witness_ResultIsTheChecksumOfTheStream : TracksStream (oneByte .reset) [0xAB] := oneByte_tracks _

theorem sumWords_ones : ∀ n : Nat, sumWords (List.replicate (2 * n) 0xFF) = n * 0xFFFF
  | 0 => rfl
  | n + 1 => by
    rw [show 2 * (n + 1) = 2 * n + 1 + 1 by ring, List.replicate_succ, List.replicate_succ, sumWords, sumWords_ones n]
    simp [Nat.shiftLeft_eq]
    ring

/-- The boundary of ShortStreamsSumExactly: 131 074 bytes `FF` (95_test_vectors.md 2.2: ACC `0xFFFFFFFF`, COUNT
`0x00020002`). -/
theorem witness_ShortStreamsSumExactly :
    TracksStream (stream 0xFFFFFFFF 0x00020002) (List.replicate 131074 0xFF)
    ∧ wordSum (List.replicate 131074 0xFF) ≤ 0xFFFFFFFF ∧ (List.replicate 131074 (0xFF : Byte)).length ≤ 131074 := by
  have hs : wordSum (List.replicate 131074 0xFF) = 65537 * 0xFFFF := by
    rw [wordSum, padded, if_neg (by rw [List.length_replicate]; decide), show 131074 = 2 * 65537 by rfl, sumWords_ones]
  refine ⟨⟨by rw [List.length_replicate]; decide, ?_, ?_⟩, by rw [hs], by rw [List.length_replicate]⟩
  · rw [hs]; omega
  · rw [hs]; decide

theorem witness_AccNeverReturnsToZero :
    startsStream (cmd 0x020000CD) = false ∧ (oneByte (cmd 0x020000CD)).acc ≠ 0
    ∧ (oneByte (cmd 0x020000CD)).inputs = cmd 0x020000CD :: []
    ∧ ∃ t, step (oneByte (cmd 0x020000CD)) = .next t := ⟨by decide, by decide, rfl, _, rfl⟩

theorem witness_ResultDependsOnlyOnTheBytesFed :
    ∀ i ∈ [cmd 0x020000AB, .access (.read 0x0C .four), cmd 0x06000000, cmd 0x04000000, cmd 0x0300CDEF],
      startsStream i = false := by decide

theorem witness_SplittingTheStreamChangesNothing :
    (∀ i ∈ [Instr.addw 0x0102, .addb 0x03] ++ [.addb 0x01, .addw 0x0203], feeds i = true)
    ∧ [Instr.addw 0x0102, .addb 0x03].flatMap fedBy = [Instr.addb 0x01, .addw 0x0203].flatMap fedBy := by decide

theorem witness_WordOrderDoesNotMatter : ([0x0001, 0xF203] : List Half).Perm [0xF203, 0x0001] := by decide

theorem witness_StreamIsIndependentOfTheRest :
    (oneByte (cmd 0x020000CD)).inputs = { oneByte (cmd 0x020000CD) with frameValid := true, errInfo := 7 }.inputs
    ∧ StreamSame (oneByte (cmd 0x020000CD)) { oneByte (cmd 0x020000CD) with frameValid := true, errInfo := 7 }
    ∧ (∃ t, step (oneByte (cmd 0x020000CD)) = .next t)
    ∧ ∃ t, step { oneByte (cmd 0x020000CD) with frameValid := true, errInfo := 7 } = .next t :=
  ⟨rfl, ⟨rfl, rfl⟩, ⟨_, rfl⟩, _, rfl⟩

theorem witness_BadAccessIsCheckedFirst :
    (Access.read 0xFF .four = .read 0xFF .four ∧ (AccessSize.four ≠ .four ∨ (0xFF : BitVec 8).toNat % 4 ≠ 0))
    ∧ ((∃ v, Access.write 0xFC .four 0 = .write 0xFC .four v)
      ∧ AccessSize.four = .four ∧ (0xFC : BitVec 8).toNat % 4 = 0) :=
  ⟨by decide, ⟨_, rfl⟩, by decide⟩

/-- Each cause of the table, at an edge of its range. -/
theorem witness_ErrorsFollowTheTableOfCauses :
    (∃ t, step (oneByte (.access (.read 0x1C .four))) = .next t ∧ t.responses = [.err])
    ∧ causeOf (.read 0x1C .four) .unmapped 0x1C ∧ causeOf (.write 0xFC .four 0) .unmapped 0xFC
    ∧ causeOf (.read 0x85 .four) .badAccess 0x85 ∧ causeOf (.write 0x00 .two 0) .badAccess 0x00
    ∧ causeOf (.write 0x84 .four 0) .roWrite 0x84 ∧ causeOf (.write 0x00 .four 0x06000000) .illegalCmd 0x06000000 := by
  refine ⟨⟨_, rfl, rfl⟩, ?_⟩
  exact ⟨.inr ⟨⟨rfl, by decide⟩, by decide, rfl, by decide⟩,
    .inr (.inl ⟨⟨rfl, by decide⟩, by decide, rfl, by decide⟩),
    .inl ⟨.inr (by decide), rfl, by decide⟩, .inl ⟨.inl (by decide), rfl, by decide⟩,
    .inr (.inr (.inl ⟨rfl, by decide, by decide, rfl, by decide⟩)),
    .inr (.inr (.inr ⟨rfl, rfl, by decide, rfl, rfl⟩))⟩

theorem witness_CmdRegister : (decode 0x06000000).toOption = none := by decide

theorem witness_ReadOnlyRegisters :
    FrameOk State.reset ∧ State.reset.frameValid = false
    ∧ (0x84 : BitVec 8) = BitVec.ofNat 8 (0x40 + 4 * (17 : Fin 18).val) :=
  ⟨⟨fun _ => by decide, by decide⟩, rfl, by decide⟩

/-- Both grounds of ReadsAreIdempotent: reads that answer Ok, at the ends of the map, and an offset apart from the three
that an erring read can change. -/
theorem witness_ReadsAreIdempotent :
    (∀ p ∈ [((0x00 : BitVec 8), AccessSize.four), (0x84, .four)], p.2 = .four ∧ isMapped p.1.toNat = true)
    ∧ ((0x0C : BitVec 8) ≠ 0x10 ∧ (0x0C : BitVec 8) ≠ 0x14 ∧ (0x0C : BitVec 8) ≠ 0x18) := by decide

/-- R34, R75: why ReadsAreIdempotent leaves ERRCAUSE out of its second ground: a misaligned read changes what it
reads as. -/
theorem test_erring_read_between :
    readReg State.reset .errCause = 0
    ∧ after (step { State.reset with inputs := [.access (.read 0x15 .four)] }) (fun t => readReg t .errCause) = some 2 := by
  decide

theorem witness_WindowSelectsByAddress :
    baseOk 0x4000 = true ∧ (0x4000 ≤ 0x40FF ∧ 0x40FF < 0x4000 + 0x100)
    ∧ ¬(0x4000 ≤ 0x4100 ∧ 0x4100 < 0x4000 + 0x100) := by decide

theorem witness_OnlyStreamCommandsWriteTheStream :
    ∃ t, step (oneByte (cmd 0x01000000)) = .next t ∧ ¬StreamSame (oneByte (cmd 0x01000000)) t :=
  ⟨_, rfl, fun h => absurd h.count (by decide)⟩

/-- FRAME as BUILD leaves it, an error recorded, and one input to come. -/
def built (i : Input) : State :=
  { stream 0 0 with frame := echoFrame, frameValid := true, errCause := .unmapped, errInfo := 0x20, inputs := [i] }

theorem witness_OnlyBuildAndResetWriteTheFrame :
    (∃ t, step (built .reset) = .next t ∧ ¬FrameSame (built .reset) t ∧ t.frameValid = false)
    ∧ (built .reset).frameValid = true :=
  ⟨⟨_, rfl, fun h => absurd h.valid (by decide), rfl⟩, rfl⟩

theorem witness_OnlyErrorsClrerrAndResetWriteTheRecord :
    ∃ t, step (built (cmd 0x05000000)) = .next t ∧ ¬RecordSame (built (cmd 0x05000000)) t :=
  ⟨_, rfl, fun h => absurd h.cause (by decide)⟩

theorem witness_StepKeepsFrameAndRecordConsistent :
    Inv (built (cmd 0x020000CD)) ∧ ∃ t, step (built (cmd 0x020000CD)) = .next t := by
  refine ⟨⟨⟨by decide, fun _ => ?_⟩, ?_⟩, _, rfl⟩
  · have h : ∀ i : Fin 72, echoImage.getD i.val 0x00 = imageByte i.val := by
      rw [show echoImage = imageWith 0xF7FF by decide]
      intro i
      fin_cases i <;> rfl
    intro i
    simpa [built, echoFrame] using h i
  · simp only [recordOk, built]; decide

theorem witness_ResetIsAClearedBlock :
    Inv { stream 5 7 with errCause := .badAccess, errInfo := 0x21 }
    ∧ { stream 5 7 with errCause := .badAccess, errInfo := 0x21 }.frameValid = false :=
  ⟨⟨⟨fun _ => by simp [stream, State.reset], by decide⟩, by simp only [recordOk]; decide⟩, rfl⟩

theorem witness_AssemblerLinesAreTheirAccesses : AccessSize.two ≠ .four := by decide

end Sys2Proof.Tests
end

section
/-! PROOFS. The registers of the register map (spec 10_state.md): what a read or a write of a mapped offset does,
said once per kind of access, and the statements of the family assembled from it. -/

namespace Sys2Proof

/-! ### A command's word decodes to the command -/

theorem dataField_encode (i : Instr) : dataField (encode i) = dataOf i := by
  rw [← BitVec.toNat_inj, dataField_toNat, encode_toNat]
  have := (dataOf i).isLt
  omega

theorem dataHigh_encode_addb (b : Byte) : dataHigh (encode (.addb b)) = 0 := by
  rw [← BitVec.toNat_inj, dataHigh_toNat, encode_addb_toNat]
  have := b.isLt
  change _ = 0
  omega

theorem dataLow_encode_addb (b : Byte) : dataLow (encode (.addb b)) = b := by
  rw [← BitVec.toNat_inj, dataLow_toNat, encode_addb_toNat]
  have := b.isLt
  omega

theorem decode_encode (i : Instr) : decode (encode i) = .ok i := by
  obtain ⟨hop, hrsv⟩ := Laws.EncodedFields.fields_of_encode i
  rw [decode, if_neg (not_not.2 hrsv), hop]
  cases i with
  | addb b => simp [opcode, dataHigh_encode_addb, dataLow_encode_addb]
  | addw w => simp [opcode, dataField_encode, dataOf]
  | nop | clr | build | clrerr => simp [opcode, noOperand, dataField_encode, dataOf]

end Sys2Proof

namespace Sys2Proof.Machine

/-! ### The register map (R18) -/

theorem regAt_offset (r : Reg) : regAt r.offset = some r := by
  cases r with
  | frame k => revert k; decide
  | _ => rfl

theorem offset_toNat_mod_four (r : Reg) : r.offset.toNat % 4 = 0 := by
  cases r with
  | frame k => revert k; decide
  | _ => rfl

theorem legalAccess_offset (r : Reg) : legalAccess r.offset .four = true :=
  (legalAccess_iff _ _).2 ⟨rfl, offset_toNat_mod_four r⟩

/-- R31: a 4-byte read of a register's offset answers the register. -/
theorem memRead_offset (s : State) (r : Reg) : memRead r.offset .four s = .ok (readReg s r) := by
  rw [memRead, if_pos (legalAccess_offset r), regAt_offset]

/-- R32: every register but CMD is read-only. -/
theorem acceptWrite_offset {r : Reg} (hr : r ≠ .cmd) (v : Word) :
    acceptWrite r.offset .four v = .error ⟨.roWrite, offsetInfo r.offset⟩ := by
  simp only [acceptWrite, legalAccess_offset, regAt_offset, if_true, if_neg hr]

theorem acceptWrite_illegal {v : Word} (hv : (decode v).toOption = none) :
    acceptWrite 0x00 .four v = .error ⟨.illegalCmd, v⟩ := by
  cases hd : decode v with
  | ok i => simp [hd, Except.toOption] at hv
  | error e => simp [acceptWrite, legalAccess, AccessSize.bytes, regAt, hd]

/-! ### One step, by the access it takes -/

@[simp] theorem readReg_setInputs (s : State) (l : List Input) (r : Reg) : readReg (s.setInputs l) r = readReg s r := by
  cases r <;> rfl

theorem step_setInputs_cons (s : State) (i : Input) (rest : List Input) :
    step (s.setInputs (i :: rest)) = perform i (s.setInputs rest) := rfl

/-- R31: a read of a register answers its value and changes no element of the block. -/
theorem step_read_register (s : State) (rest : List Input) (r : Reg) :
    step (s.setInputs (.access (.read r.offset .four) :: rest))
      = .next ((s.setInputs rest).respond (.okRead (readReg s r))) := by
  rw [step_setInputs_cons, perform, hostRead_eq, memRead_offset, readReg_setInputs]

/-- R75: a write that is not accepted records its error and has no other effect. -/
theorem step_write_error {off : BitVec 8} {n : AccessSize} {v : Word} {e : BusError} (s : State) (rest : List Input)
    (h : acceptWrite off n v = .error e) :
    step (s.setInputs (.access (.write off n v) :: rest)) = .next (afterError s rest e.cause e.info) := by
  rw [step_setInputs_cons, perform, hostWrite_eq, h]; rfl

/-- R32: a write to a register other than CMD raises cause 3 with the offset. -/
theorem step_write_readOnly {r : Reg} (hr : r ≠ .cmd) (s : State) (rest : List Input) (v : Word) :
    step (s.setInputs (.access (.write r.offset .four v) :: rest))
      = .next (afterError s rest .roWrite (offsetInfo r.offset)) :=
  step_write_error s rest (acceptWrite_offset hr v)

/-- R32: a legal word written to CMD runs its command and answers Ok. -/
theorem step_write_command {v : Word} {i : Instr} (hv : decode v = .ok i) (s : State) (rest : List Input) :
    step (s.setInputs (.access (.write 0x00 .four v) :: rest))
      = .next ((effect i (s.setInputs rest)).respond .okWrite) := by
  rw [step_setInputs_cons, perform, hostWrite_eq, acceptWrite_ok.2 ⟨rfl, rfl, hv⟩]

/-! ### The values of the computed registers -/

theorem complement16_toNat (v : Nat) : (complement16 v).toNat = 0xFFFF - v := by
  rw [complement16, BitVec.toNat_ofNat]; omega

theorem resultWord_toNat (s : State) : (resultWord s).toNat = 0xFFFF - fold s.acc.toNat := by
  rw [resultWord, BitVec.toNat_setWidth, complement16_toNat]; omega

/-- R26: the lowest-numbered byte is the most significant. -/
theorem frameWord_toNat (f : Vector Byte 72) (k : Fin 18) :
    (frameWord f k).toNat = f[4 * k.val].toNat * 2 ^ 24 + f[4 * k.val + 1].toNat * 2 ^ 16
      + f[4 * k.val + 2].toNat * 2 ^ 8 + f[4 * k.val + 3].toNat := by
  simp only [frameWord, append_toNat]; ring

theorem frameWord_eq_zero {f : Vector Byte 72} (h : ∀ i : Fin 72, f[i] = 0x00) (k : Fin 18) : frameWord f k = 0 := by
  have hbyte (j : Nat) (hj : j < 72) : f[j] = 0x00 := h ⟨j, hj⟩
  simp [frameWord, hbyte]

/-- The three flags stand in bits 2, 1 and 0, so their disjunction is a sum. -/
theorem flagBits_toNat (e v o : Bool) :
    (flagBit e <<< 2 ||| flagBit v <<< 1 ||| flagBit o).toNat = o.toNat + 2 * v.toNat + 4 * e.toNat := by
  revert e v o; decide

theorem oddFlag_toNat (s : State) : (oddFlag s).toNat = s.count.toNat % 2 := by
  rw [oddFlag_eq]
  rcases Nat.mod_two_eq_zero_or_one s.count.toNat with h | h <;> simp [h]

theorem errFlag_toNat (s : State) : (errFlag s).toNat = if s.errCause.code = 0 then 0 else 1 := by
  rw [errFlag]
  cases s.errCause <;> rfl

theorem statusWord_toNat (s : State) :
    (statusWord s).toNat
      = s.count.toNat % 2 + 2 * s.frameValid.toNat + 4 * (if s.errCause.code = 0 then 0 else 1) := by
  rw [statusWord, flagBits_toNat, oddFlag_toNat, errFlag_toNat, frameValidFlag]

/-- R57: a byte moves the stream's parity. -/
theorem oddFlag_feed (b : Byte) (s : State) : oddFlag (feed b s) = !oddFlag s := by
  have hcount : (s.count + 1).toNat % 2 = (s.count.toNat + 1) % 2 := by
    rw [BitVec.toNat_add, show (1 : Word).toNat = 1 from rfl]; omega
  rw [oddFlag_eq, oddFlag_eq, feed_count, hcount]
  rcases Nat.mod_two_eq_zero_or_one s.count.toNat with h | h <;> simp [Nat.add_mod, h]

/-! ### The codes of the causes (R24, R74) -/

theorem code_toNat_le (c : ErrCause) : c.code.toNat ≤ 4 := by
  cases c <;> decide

/-! ### What a step does to FRAME (R14, R15) -/

theorem FrameSame.of_eq {s t : State} (hframe : t.frame = s.frame) (hvalid : t.frameValid = s.frameValid) :
    FrameSame s t :=
  ⟨fun i => by rw [hframe], hvalid⟩

theorem effect_frameSame {i : Instr} (hi : i ≠ .build) (s : State) : FrameSame s (effect i s) := by
  cases i with
  | build => exact absurd rfl hi
  | _ => exact .of_eq rfl rfl

theorem commandOf_write {v : Word} {i : Instr} (hv : decode v = .ok i) :
    commandOf (.access (.write 0x00 .four v)) = some i := by
  simp [commandOf, hv, Except.toOption]

/-- A step leaves FRAME and FRAME_VALID as they are, resets them, or is BUILD, which leaves FRAME_VALID 1. -/
theorem step_frame_cases {s t : State} (h : step s = .next t) :
    FrameSame s t
    ∨ (∃ rest, s.inputs = .reset :: rest)
    ∨ (∃ i rest, s.inputs = i :: rest ∧ commandOf i = some .build ∧ t.frameValid = true) := by
  rcases step_inversion h with ⟨-, rfl⟩ | ⟨rest, hin, -⟩ | ⟨_, _, _, _, -, -, rfl⟩ | ⟨_, _, _, _, -, -, rfl⟩
    | ⟨v, i, rest, hin, hv, rfl⟩ | ⟨_, _, _, _, _, -, -, rfl⟩
  · exact .inl (.of_eq rfl rfl)
  · exact .inr (.inl ⟨rest, hin⟩)
  · exact .inl (.of_eq rfl rfl)
  · exact .inl (.of_eq rfl rfl)
  · by_cases hi : i = .build
    · subst hi
      exact .inr (.inr ⟨_, rest, hin, commandOf_write hv, rfl⟩)
    · obtain ⟨hbyte, hvalid⟩ := effect_frameSame hi (s.setInputs rest)
      exact .inl ⟨hbyte, hvalid⟩
  · exact .inl (.of_eq rfl rfl)

/-! ### The statements -/

/-- Settles O40: CMD reads as the register it is, and a write to it is decided by the decoder, which takes every
command's word to that command. -/
theorem cmdRegister : Obligations.CmdRegister := by
  intro s rest
  refine ⟨step_read_register s rest .cmd, fun v hv => step_write_error s rest (acceptWrite_illegal hv), fun i => ?_⟩
  exact ⟨_, exec_eq i _, step_write_command (decode_encode i) s rest⟩

/-- Settles O41: each offset of the statement is that of a register other than CMD. -/
theorem readOnlyRegisters : Obligations.ReadOnlyRegisters := by
  intro s
  refine ⟨memRead_offset s .acc, memRead_offset s .count, memRead_offset s .errInfo, fun k => ?_, ?_⟩
  · exact ⟨_, memRead_offset s (.frame k), frameWord_toNat s.frame k,
      fun hf hv => frameWord_eq_zero (hf.unbuilt hv) k⟩
  · rintro off v rest (rfl | rfl | rfl | ⟨k, rfl⟩)
    · exact step_write_readOnly (r := .acc) (by decide) s rest v
    · exact step_write_readOnly (r := .count) (by decide) s rest v
    · exact step_write_readOnly (r := .errInfo) (by decide) s rest v
    · exact step_write_readOnly (r := .frame k) (by simp) s rest v

/-- Settles O42: RESULT is computed from ACC at the read, which only responds. -/
theorem resultRegister : Obligations.ResultRegister := by
  refine ⟨fun s => ⟨_, memRead_offset s .result, resultWord_toNat s, ?_⟩, fun s rest => ?_, fun s rest v => ?_⟩
  · rw [readReg, resultWord_toNat]; omega
  · exact ⟨_, step_read_register s rest .result, ⟨rfl, rfl⟩, .of_eq rfl rfl, ⟨rfl, rfl⟩⟩
  · exact step_write_readOnly (r := .result) (by decide) s rest v

/-- Settles O43: STATUS is the sum of its three flags; ADDB feeds one byte, ADDW two. -/
theorem statusRegister : Obligations.StatusRegister := by
  refine ⟨fun s => ⟨_, memRead_offset s .status, statusWord_toNat s⟩, fun s rest v => ?_, fun b s => ?_, fun w s => ?_,
    fun s => ⟨_, exec_eq .build s, rfl⟩⟩
  · exact step_write_readOnly (r := .status) (by decide) s rest v
  · exact ⟨_, exec_eq (.addb b) s, oddFlag_feed b s⟩
  · exact ⟨_, exec_eq (.addw w) s, by rw [effect, oddFlag_feed, oddFlag_feed, Bool.not_not]⟩

/-- Settles O44: the code is one of the type's five, and the rejected write itself records cause 3. -/
theorem errcauseRegister : Obligations.ErrcauseRegister := by
  refine ⟨fun s => ⟨_, memRead_offset s .errCause, ?_, ?_⟩, fun s rest v => ?_⟩
  · rw [readReg, BitVec.toNat_setWidth_of_le (by decide)]
  · rw [readReg, BitVec.toNat_setWidth_of_le (by decide)]
    exact code_toNat_le s.errCause
  · exact ⟨_, step_write_readOnly (r := .errCause) (by decide) s rest v, rfl, rfl, rfl⟩

/-- Settles O48, by the three things a step can do to FRAME. -/
theorem onlyBuildAndResetWriteTheFrame : Obligations.OnlyBuildAndResetWriteTheFrame := by
  refine ⟨rfl, fun s => ⟨_, exec_eq .build s, rfl⟩, fun s t h => ?_⟩
  rcases step_frame_cases h with hsame | ⟨rest, hin⟩ | ⟨i, rest, hin, hbuild, hvalid⟩
  · refine ⟨fun hne => absurd hsame hne, fun hs ht => ?_⟩
    rw [hsame.valid, hs] at ht
    cases ht
  · exact ⟨fun _ => ⟨_, rest, hin, .inl rfl⟩, fun _ _ => ⟨rest, hin⟩⟩
  · refine ⟨fun _ => ⟨i, rest, hin, .inr hbuild⟩, fun _ ht => ?_⟩
    rw [hvalid] at ht
    cases ht

end Sys2Proof.Machine
end

section
/-! PROOFS. The register window (spec 20_memory.md): the mapped offsets are those of the registers, what each kind of
erring access raises, the table of read values, and the statements of the family assembled from them. -/

namespace Sys2Proof.Machine

/-! ### The mapped offsets are the registers' (R18) -/

theorem isMapped_iff (off : Nat) :
    isMapped off = true ↔ off % 4 = 0 ∧ (off ≤ 0x18 ∨ 0x40 ≤ off ∧ off ≤ 0x84) := by
  simp [isMapped]

theorem frame_offset_toNat (k : Fin 18) : (Reg.frame k).offset.toNat = 0x40 + 4 * k.val := by
  rw [Reg.offset, BitVec.toNat_ofNat]; omega

theorem isMapped_offset (r : Reg) : isMapped r.offset.toNat = true := by
  cases r with
  | frame k => rw [isMapped_iff, frame_offset_toNat]; omega
  | _ => rfl

theorem offset_toNat_eq_zero {r : Reg} (h : r.offset.toNat = 0) : r = .cmd := by
  have hcmd : r.offset = Reg.cmd.offset := BitVec.eq_of_toNat_eq h
  exact Option.some.inj (by rw [← regAt_offset r, hcmd, regAt_offset])

theorem offset_of_regAt {off : BitVec 8} {r : Reg} (h : regAt off = some r) : r.offset = off := by
  unfold regAt at h
  split_ifs at h with h0 h1 h2 h3 h4 h5 h6 hframe <;> cases h
  on_goal 8 =>
    rw [← BitVec.toNat_inj, frame_offset_toNat]
    change 0x40 + 4 * ((off.toNat - 0x40) / 4) = off.toNat
    omega
  all_goals exact Eq.symm ‹off = _›

theorem isMapped_eq_false_of_regAt {off : BitVec 8} (h : regAt off = none) : isMapped off.toNat = false := by
  unfold regAt at h
  split_ifs at h with h0 h1 h2 h3 h4 h5 h6 hframe
  rw [← Bool.not_eq_true, isMapped_iff]
  bv_omega

theorem exists_offset_of_isMapped {off : BitVec 8} (h : isMapped off.toNat = true) : ∃ r : Reg, r.offset = off := by
  cases hr : regAt off with
  | some r => exact ⟨r, offset_of_regAt hr⟩
  | none => simp [isMapped_eq_false_of_regAt hr] at h

theorem regAt_eq_none {off : BitVec 8} (h : isMapped off.toNat = false) : regAt off = none := by
  cases hr : regAt off with
  | none => rfl
  | some r =>
    rw [← offset_of_regAt hr, isMapped_offset] at h
    cases h

/-! ### What each kind of erring access raises (R30 to R32) -/

section
variable {off : BitVec 8} {n : AccessSize}

theorem legalAccess_eq_false (hbad : n ≠ .four ∨ off.toNat % 4 ≠ 0) : legalAccess off n = false := by
  rw [← Bool.not_eq_true, legalAccess_iff]; tauto

theorem memRead_badAccess (hbad : n ≠ .four ∨ off.toNat % 4 ≠ 0) (s : State) :
    memRead off n s = .error ⟨.badAccess, offsetInfo off⟩ := by
  simp [memRead, legalAccess_eq_false hbad]

theorem acceptWrite_badAccess (hbad : n ≠ .four ∨ off.toNat % 4 ≠ 0) (v : Word) :
    acceptWrite off n v = .error ⟨.badAccess, offsetInfo off⟩ := by
  simp [acceptWrite, legalAccess_eq_false hbad]

theorem memRead_unmapped (hlegal : n = .four ∧ off.toNat % 4 = 0) (hmap : isMapped off.toNat = false) (s : State) :
    memRead off n s = .error ⟨.unmapped, offsetInfo off⟩ := by
  simp [memRead, (legalAccess_iff off n).2 hlegal, regAt_eq_none hmap]

theorem acceptWrite_unmapped (hlegal : n = .four ∧ off.toNat % 4 = 0) (hmap : isMapped off.toNat = false) (v : Word) :
    acceptWrite off n v = .error ⟨.unmapped, offsetInfo off⟩ := by
  simp [acceptWrite, (legalAccess_iff off n).2 hlegal, regAt_eq_none hmap]

/-- R75: a read that raises records its error and has no other effect. -/
theorem step_read_error {e : BusError} (s : State) (rest : List Input)
    (h : memRead off n (s.setInputs rest) = .error e) :
    step (s.setInputs (.access (.read off n) :: rest)) = .next (afterError s rest e.cause e.info) := by
  rw [step_setInputs_cons, perform, hostRead_eq, h]; rfl

end

/-! ### The table of read values (R31) -/

theorem errCause_code_eq_zero_iff (c : ErrCause) : c.code = 0 ↔ c = .noError := by
  cases c <;> decide

/-- A register word is the number it holds. -/
theorem word_eq_ofNat {w : Word} {x : Nat} (h : w.toNat = x) : BitVec.ofNat 32 x = w := by
  rw [← h, BitVec.ofNat_toNat, BitVec.setWidth_eq]

theorem readTable_frame (s : State) (k : Fin 18) :
    readTable s (Reg.frame k).offset.toNat = frameWord s.frame k := by
  have hk := k.isLt
  have hbyte (j : Nat) (hj : j < 72) : s.frame.toList.getD j 0 = s.frame[j] := by
    simp [List.getD, hj]
  rw [frame_offset_toNat, readTable]
  repeat rw [if_neg (by omega)]
  apply word_eq_ofNat
  rw [frameWord_toNat, Nat.add_sub_cancel_left]
  simp (disch := omega) only [hbyte, Nat.add_zero]

/-- R31: the table of values gives, at a register's offset, what a read of the register returns. -/
theorem readTable_offset (s : State) (r : Reg) : readTable s r.offset.toNat = readReg s r := by
  cases r with
  | cmd | acc | count | errInfo => rfl
  | result => exact word_eq_ofNat (resultWord_toNat s)
  | status =>
    apply word_eq_ofNat
    rw [readReg, statusWord_toNat]
    simp only [errCause_code_eq_zero_iff, Bool.toNat, Bool.cond_eq_ite]
    split_ifs <;> omega
  | errCause => exact word_eq_ofNat (BitVec.toNat_setWidth_of_le (by decide))
  | frame k => exact readTable_frame s k

/-! ### The window in the platform's address space (R28) -/

theorem windowOffset_of_inside {base a : Nat} (h : base ≤ a ∧ a < base + 0x100) :
    windowOffset base a = some (BitVec.ofNat 8 (a - base)) := if_pos h

theorem windowOffset_of_outside {base a : Nat} (h : ¬(base ≤ a ∧ a < base + 0x100)) :
    windowOffset base a = none := if_neg h

/-! ### The states that an access does not leave -/

/-- An answer other than Err is no error's state. -/
theorem next_ne_afterError_of_response {s t : State} {r : Response} (ht : t.responses = s.responses ++ [r])
    (hr : r ≠ .err) (rest : List Input) (c : ErrCause) (info : Word) :
    (.next t : Host.Outcome State Fault Refusal) ≠ .next (afterError s rest c info) := by
  rintro ⟨⟩
  exact hr (List.cons.inj (List.append_cancel_left ht)).1.symm

/-- The state after an error shows its cause. -/
theorem next_afterError_ne_of_cause {c d : ErrCause} (h : c ≠ d) (s : State) (rest : List Input)
    (info info' : Word) :
    (.next (afterError s rest c info) : Host.Outcome State Fault Refusal) ≠ .next (afterError s rest d info') :=
  fun heq => h (congrArg State.errCause (Host.Outcome.next.inj heq))

/-! ### The statements -/

/-- Settles O35, by the three kinds of offset: not legal, a register's, or outside the map. -/
theorem hostReadFollowsTheRegisterMap : Obligations.HostReadFollowsTheRegisterMap := by
  intro s rest off n
  by_cases hbad : n ≠ .four ∨ off.toNat % 4 ≠ 0
  · rw [if_pos hbad]
    exact step_read_error s rest (memRead_badAccess hbad _)
  have hlegal : n = .four ∧ off.toNat % 4 = 0 := by tauto
  rw [if_neg hbad]
  by_cases hmap : isMapped off.toNat = true
  · obtain ⟨r, rfl⟩ := exists_offset_of_isMapped hmap
    rw [if_pos hmap, hlegal.1, readTable_offset]
    exact step_read_register s rest r
  · rw [if_neg hmap]
    exact step_read_error s rest (memRead_unmapped hlegal (Bool.eq_false_iff.2 hmap) _)

/-- Settles O36, in the order of the causes: not legal, outside the map, a read-only register's, or CMD's, where the
decoder decides. -/
theorem hostWriteFollowsTheRegisterMap : Obligations.HostWriteFollowsTheRegisterMap := by
  intro s rest off n v
  by_cases hbad : n ≠ .four ∨ off.toNat % 4 ≠ 0
  · rw [if_pos hbad]
    exact step_write_error s rest (acceptWrite_badAccess hbad v)
  have hlegal : n = .four ∧ off.toNat % 4 = 0 := by tauto
  rw [if_neg hbad]
  by_cases hmap : isMapped off.toNat = false
  · rw [if_pos hmap]
    exact step_write_error s rest (acceptWrite_unmapped hlegal hmap v)
  obtain ⟨r, rfl⟩ := exists_offset_of_isMapped (Bool.eq_true_of_not_eq_false hmap)
  rw [if_neg hmap, hlegal.1]
  by_cases hr : r = .cmd
  · subst hr
    rw [if_neg (show ¬Reg.cmd.offset.toNat ≠ 0 by decide)]
    cases hd : decode v with
    | ok i => simp only [exec_eq]; exact step_write_command hd s rest
    | error e => exact step_write_error s rest (acceptWrite_illegal (by rw [hd]; rfl))
  · rw [if_pos (mt offset_toNat_eq_zero hr)]
    exact step_write_readOnly hr s rest v

/-- Settles O37: the check comes first for reads and writes; a legal access answers Ok or records another cause. -/
theorem badAccessIsCheckedFirst : Obligations.BadAccessIsCheckedFirst := by
  rintro s rest off n a (rfl | ⟨v, rfl⟩)
  · refine ⟨fun hbad => step_read_error s rest (memRead_badAccess hbad _), fun hlegal info => ?_⟩
    rw [hostReadFollowsTheRegisterMap, if_neg (by tauto)]
    split
    · exact next_ne_afterError_of_response rfl (by simp) rest _ _
    · exact next_afterError_ne_of_cause (by decide) s rest _ _
  · refine ⟨fun hbad => step_write_error s rest (acceptWrite_badAccess hbad v), fun hlegal info => ?_⟩
    rw [hostWriteFollowsTheRegisterMap, if_neg (by tauto)]
    split
    · exact next_afterError_ne_of_cause (by decide) s rest _ _
    split
    · exact next_afterError_ne_of_cause (by decide) s rest _ _
    split
    · exact next_afterError_ne_of_cause (by decide) s rest _ _
    · simp only [exec_eq]
      exact next_ne_afterError_of_response (congrArg (· ++ _) (effect_responses _ _)) (by decide) rest _ _

/-- Settles O46: inside the window BASE is the address with its low 8 bits cleared. -/
theorem windowSelectsByAddress : Obligations.WindowSelectsByAddress := by
  intro base a n v hbase
  have halign : base % 0x100 = 0 := of_decide_eq_true hbase
  refine ⟨fun hin => ⟨BitVec.ofNat 8 (a - base), ?_, ?_, ?_, ?_⟩, fun hout => ⟨?_, ?_⟩⟩
  · rw [BitVec.toNat_ofNat]; omega
  · rw [BitVec.toNat_ofNat]; omega
  · rw [reachesBlock, windowOffset_of_inside hin, Option.map_some]
  · rw [reachesBlock, windowOffset_of_inside hin, Option.map_some]
  · rw [reachesBlock, windowOffset_of_outside hout, Option.map_none]
  · rw [reachesBlock, windowOffset_of_outside hout, Option.map_none]

end Sys2Proof.Machine
end

section
/-! PROOFS. The decoder and the opcode map (spec 30_encoding.md R43 to R48): the fields of a word as numbers, the
words that decode, and the words that select a row of the map. -/

namespace Sys2Proof

/-! ### The decoder's conditions and operands on the numbers of the fields -/

theorem opField_eq_iff (v : Word) (c : Byte) : opField v = c ↔ v.toNat / 2 ^ 24 = c.toNat := by
  rw [← BitVec.toNat_inj, opField_toNat]

theorem rsvField_eq_zero_iff (v : Word) : rsvField v = 0 ↔ v.toNat / 2 ^ 16 % 2 ^ 8 = 0 := by
  rw [← BitVec.toNat_inj, rsvField_toNat]; rfl

theorem dataField_eq_zero_iff (v : Word) : dataField v = 0 ↔ v.toNat % 2 ^ 16 = 0 := by
  rw [← BitVec.toNat_inj, dataField_toNat]; rfl

theorem dataHigh_eq_zero_iff (v : Word) : dataHigh v = 0 ↔ v.toNat % 2 ^ 16 / 2 ^ 8 = 0 := by
  rw [← BitVec.toNat_inj, dataHigh_toNat, ← Nat.mod_mul_right_div_self]; rfl

theorem dataField_eq_ofNat (v : Word) : dataField v = BitVec.ofNat 16 (v.toNat % 2 ^ 16) := by
  rw [← BitVec.toNat_inj, dataField_toNat, BitVec.toNat_ofNat, Nat.mod_mod]; rfl

theorem dataLow_eq_ofNat (v : Word) : dataLow v = BitVec.ofNat 8 (v.toNat % 2 ^ 16) := by
  rw [← BitVec.toNat_inj, dataLow_toNat, BitVec.toNat_ofNat]; omega

theorem noOperand_toOption (v : Word) (i : Instr) :
    (noOperand v i).toOption = if v.toNat % 2 ^ 16 = 0 then some i else none := by
  simp only [noOperand, dataField_eq_zero_iff]
  split <;> rfl

/-! ### A word that decodes is the word of its command -/

theorem noOperand_eq_ok_iff (v : Word) (i j : Instr) : noOperand v i = .ok j ↔ dataField v = 0 ∧ i = j := by
  rw [noOperand]
  split_ifs with hdata
  · rw [Except.ok.injEq, and_iff_right hdata]
  · exact iff_of_false nofun fun h => hdata h.1

/-- R43: the three fields make up the word. -/
theorem fields_append (v : Word) : opField v ++ rsvField v ++ dataField v = v := by
  rw [← BitVec.toNat_inj, append_toNat, append_toNat, opField_toNat, rsvField_toNat, dataField_toNat]
  omega

theorem dataHigh_append_dataLow (v : Word) : dataHigh v ++ dataLow v = dataField v := by
  rw [← BitVec.toNat_inj, append_toNat, dataHigh_toNat, dataLow_toNat, dataField_toNat]
  omega

/-- R44 to R46: what the decoder has checked when it answers a command. -/
theorem fields_of_decode {v : Word} {i : Instr} (h : decode v = .ok i) :
    opField v = opcode i ∧ rsvField v = 0 ∧ dataField v = dataOf i := by
  rw [decode] at h
  split_ifs at h with hrsv hnop hclr haddb hhigh haddw hbuild hclrerr
  · obtain ⟨hdata, rfl⟩ := (noOperand_eq_ok_iff ..).1 h
    exact ⟨hnop, not_not.1 hrsv, hdata⟩
  · obtain ⟨hdata, rfl⟩ := (noOperand_eq_ok_iff ..).1 h
    exact ⟨hclr, not_not.1 hrsv, hdata⟩
  · cases h
    exact ⟨haddb, not_not.1 hrsv, by rw [dataOf, ← hhigh, dataHigh_append_dataLow]⟩
  · cases h
    exact ⟨haddw, not_not.1 hrsv, rfl⟩
  · obtain ⟨hdata, rfl⟩ := (noOperand_eq_ok_iff ..).1 h
    exact ⟨hbuild, not_not.1 hrsv, hdata⟩
  · obtain ⟨hdata, rfl⟩ := (noOperand_eq_ok_iff ..).1 h
    exact ⟨hclrerr, not_not.1 hrsv, hdata⟩

theorem decode_eq_ok_iff {v : Word} {i : Instr} : decode v = .ok i ↔ encode i = v := by
  refine ⟨fun h => ?_, fun h => h ▸ decode_encode i⟩
  obtain ⟨hop, hrsv, hdata⟩ := fields_of_decode h
  calc encode i = opField v ++ rsvField v ++ dataField v := by rw [hop, hrsv, hdata]; rfl
    _ = v := fields_append v

/-! ### The rows of the opcode map -/

/-- A row's mask keeps the bits from bit `k` up and leaves a `k`-bit operand free. -/
theorem and_highMask_eq_iff (v : Word) (k c : Nat) :
    (v &&& BitVec.allOnes 32 <<< k).toNat = c * 2 ^ k ↔ ∃ b : BitVec k, c * 2 ^ k + b.toNat = v.toNat := by
  have hkeep : (v &&& BitVec.allOnes 32 <<< k).toNat = v.toNat / 2 ^ k * 2 ^ k := by
    rw [← BitVec.shiftLeft_ushiftRight, BitVec.toNat_shiftLeft, BitVec.toNat_ushiftRight, Nat.shiftLeft_eq,
      Nat.shiftRight_eq_div_pow, Nat.mod_eq_of_lt ((Nat.div_mul_le_self ..).trans_lt v.isLt)]
  rw [hkeep]
  constructor
  · intro h
    exact ⟨BitVec.ofNat k v.toNat, by rw [← h, BitVec.toNat_ofNat, Nat.div_add_mod']⟩
  · rintro ⟨b, hb⟩
    rw [← hb, Nat.add_comm, Nat.add_mul_div_right _ _ (Nat.two_pow_pos k), Nat.div_eq_of_lt b.isLt,
      Nat.zero_add]

theorem and_fullMask_eq_iff (v w : Word) : v &&& 0xFFFFFFFF = w ↔ w = v := by
  rw [show (0xFFFFFFFF : Word) = BitVec.allOnes 32 from rfl, BitVec.and_allOnes, eq_comm]

theorem and_addbMask_eq_iff (v : Word) : v &&& 0xFFFFFF00 = 0x02000000 ↔ ∃ b, encode (.addb b) = v := by
  simp only [← BitVec.toNat_inj, encode_addb_toNat]
  exact and_highMask_eq_iff v 8 0x20000

theorem and_addwMask_eq_iff (v : Word) : v &&& 0xFFFF0000 = 0x03000000 ↔ ∃ w, encode (.addw w) = v := by
  simp only [← BitVec.toNat_inj, encode_addw_toNat]
  exact and_highMask_eq_iff v 16 0x300

theorem exists_instr {P : Instr → Prop} :
    (∃ i, P i) ↔ P .nop ∨ P .clr ∨ (∃ b, P (.addb b)) ∨ (∃ w, P (.addw w)) ∨ P .build ∨ P .clrerr := by
  constructor
  · rintro ⟨i, hi⟩
    cases i with
    | nop => exact .inl hi
    | clr => exact .inr (.inl hi)
    | addb b => exact .inr (.inr (.inl ⟨b, hi⟩))
    | addw w => exact .inr (.inr (.inr (.inl ⟨w, hi⟩)))
    | build => exact .inr (.inr (.inr (.inr (.inl hi))))
    | clrerr => exact .inr (.inr (.inr (.inr (.inr hi))))
  · rintro (h | h | ⟨b, h⟩ | ⟨w, h⟩ | h | h) <;> exact ⟨_, h⟩

theorem and_mask_eq_bits_iff {r : OpcodeRow} (hr : r ∈ opcodeMap) (v : Word) :
    v &&& r.mask = r.bits ↔ ∃ i, encode i = v ∧ mnemonic i = r.mnemonic := by
  rw [exists_instr]
  simp only [opcodeMap, List.mem_cons, List.not_mem_nil, or_false] at hr
  obtain rfl | rfl | rfl | rfl | rfl | rfl := hr
  · exact (and_fullMask_eq_iff v (encode .nop)).trans (by simp [mnemonic])
  · exact (and_fullMask_eq_iff v (encode .clr)).trans (by simp [mnemonic])
  · exact (and_addbMask_eq_iff v).trans (by simp [mnemonic])
  · exact (and_addwMask_eq_iff v).trans (by simp [mnemonic])
  · exact (and_fullMask_eq_iff v (encode .build)).trans (by simp [mnemonic])
  · exact (and_fullMask_eq_iff v (encode .clrerr)).trans (by simp [mnemonic])

theorem row_eq_of_mnemonic_eq : ∀ r ∈ opcodeMap, ∀ q ∈ opcodeMap, r.mnemonic = q.mnemonic → r = q := by
  decide

theorem addbBits_or_operand (b : Byte) : 0x02000000 ||| b.setWidth 32 = encode (.addb b) := by
  rw [← BitVec.toNat_inj, encode_addb_toNat, BitVec.toNat_or, BitVec.toNat_setWidth_of_le (by decide)]
  exact (Nat.two_pow_add_eq_or_of_lt b.isLt 0x20000).symm

theorem addwBits_or_operand (w : Half) : 0x03000000 ||| w.setWidth 32 = encode (.addw w) := by
  rw [← BitVec.toNat_inj, encode_addw_toNat, BitVec.toNat_or, BitVec.toNat_setWidth_of_le (by decide)]
  exact (Nat.two_pow_add_eq_or_of_lt w.isLt 0x300).symm

/-! ### The statements -/

/-- Settles O2: the decoder asks the statement's questions in the statement's order, on the fields instead of their
numbers. -/
theorem decoderFollowsTheFormat : Obligations.DecoderFollowsTheFormat := by
  intro v op rsv data
  simp only [decode, apply_ite Except.toOption, noOperand_toOption]
  simp only [ne_eq, opField_eq_iff, rsvField_eq_zero_iff, dataHigh_eq_zero_iff, dataLow_eq_ofNat,
    dataField_eq_ofNat]
  rfl

/-- Settles O3: a word selects a row exactly when it is the word of a command of the row's mnemonic, that is when it
decodes to it; it decodes to one command only, and no two rows have the same mnemonic. -/
theorem opcodeMapRowsSelectTheCommand : Obligations.OpcodeMapRowsSelectTheCommand := by
  have hrow (v : Word) (r : OpcodeRow) (hr : r ∈ opcodeMap) :
      v &&& r.mask = r.bits ↔ ∃ i, decode v = .ok i ∧ mnemonic i = r.mnemonic := by
    simp only [and_mask_eq_bits_iff hr, decode_eq_ok_iff]
  refine ⟨rfl, hrow, fun v r hr q hq hvr hvq => ?_, fun b => ?_, fun w => ?_⟩
  · obtain ⟨i, hi, hir⟩ := (hrow v r hr).1 hvr
    obtain ⟨j, hj, hjq⟩ := (hrow v q hq).1 hvq
    have hij : i = j := Except.ok.inj (hi.symm.trans hj)
    exact row_eq_of_mnemonic_eq r hr q hq (by rw [← hir, hij, hjq])
  · rw [addbBits_or_operand, decode_encode]; rfl
  · rw [addwBits_or_operand, decode_encode]; rfl

end Sys2Proof
end

section
/-! PROOFS. The checksum functions and the stream commands (spec 40_checksum.md): what fold keeps, the word sum of a
split sequence, what feed does to ACC as one's-complement addition, and the statements of the family assembled from
them. -/

namespace Sys2Proof

/-! ### The words that are no command's -/

theorem decode_toOption_eq_some_iff {v : Word} {i : Instr} : (decode v).toOption = some i ↔ encode i = v := by
  rw [← decode_eq_ok_iff]
  cases decode v <;> simp [Except.toOption]

theorem decode_toOption_eq_none {v : Word} (h : ∀ i, encode i ≠ v) : (decode v).toOption = none :=
  Option.eq_none_iff_forall_ne_some.2 fun i hi => h i (decode_toOption_eq_some_iff.1 hi)

theorem eq_clr_of_opcode {i : Instr} (h : opcode i = 0x01) : i = .clr := by
  cases i with
  | clr => rfl
  | _ => simp [opcode] at h

theorem eq_addb_of_opcode {i : Instr} (h : opcode i = 0x02) : ∃ b, i = .addb b := by
  cases i with
  | addb b => exact ⟨b, rfl⟩
  | _ => simp [opcode] at h

theorem eq_addw_of_opcode {i : Instr} (h : opcode i = 0x03) : ∃ w, i = .addw w := by
  cases i with
  | addw w => exact ⟨w, rfl⟩
  | _ => simp [opcode] at h

theorem addbBits_add_operand (b : Byte) : 0x02000000 + b.setWidth 32 = encode (.addb b) := by
  rw [← BitVec.toNat_inj, encode_addb_toNat, BitVec.toNat_add, BitVec.toNat_setWidth_of_le (by decide)]
  exact Nat.mod_eq_of_lt (by have := b.isLt; simp; omega)

theorem addwBits_add_operand (w : Half) : 0x03000000 + w.setWidth 32 = encode (.addw w) := by
  rw [← BitVec.toNat_inj, encode_addw_toNat, BitVec.toNat_add, BitVec.toNat_setWidth_of_le (by decide)]
  exact Nat.mod_eq_of_lt (by have := w.isLt; simp; omega)

end Sys2Proof

namespace Sys2Proof.Machine

/-- R49: a word that is the word of no command with its OP is illegal. -/
theorem raisesIllegal_of_opcode {v : Word} {c : Byte} (hop : v.toNat / 2 ^ 24 = c.toNat)
    (hne : ∀ i, opcode i = c → encode i ≠ v) : raisesIllegal v := by
  have hnone : (decode v).toOption = none := by
    refine decode_toOption_eq_none fun i hi => hne i ?_ hi
    rw [← (Laws.EncodedFields.fields_of_encode i).1, hi]
    exact (opField_eq_iff v c).2 hop
  exact ⟨hnone, fun s rest => step_write_error s rest (acceptWrite_illegal hnone)⟩

/-! ### fold (R55) -/

/-- The loop's induction: a relation between a number and the loop's result holds if it holds where the loop ends and
every round keeps it. -/
theorem fold_induction {P : Nat → Nat → Prop} (hend : ∀ x, x ≤ 0xFFFF → P x x)
    (hround : ∀ x y, x > 0xFFFF → P (foldStep x) y → P x y) (x : Nat) : P x (fold x) := by
  induction x using Nat.strong_induction_on with
  | _ x ih =>
    rw [fold_unfold]
    split_ifs with h
    · exact hround x _ h (ih _ (foldStep_lt h))
    · exact hend x (Nat.le_of_not_lt h)

theorem fold_le (x : Nat) : fold x ≤ 0xFFFF :=
  fold_induction (P := fun _ y => y ≤ 0xFFFF) (fun _ h => h) (fun _ _ _ h => h) x

theorem fold_mod (x : Nat) : fold x % 0xFFFF = x % 0xFFFF := by
  refine fold_induction (P := fun x y => y % 0xFFFF = x % 0xFFFF) (fun _ _ => rfl) (fun x y _ h => ?_) x
  rw [h, foldStep_eq]; omega

theorem fold_eq_zero_iff (x : Nat) : fold x = 0 ↔ x = 0 := by
  refine fold_induction (P := fun x y => y = 0 ↔ x = 0) (fun _ _ => .rfl) (fun x y _ h => ?_) x
  rw [h, foldStep_eq]; omega

/-! ### The word sum (R56) -/

theorem sumWords_eq_sum (bs : List Byte) :
    sumWords bs
      = ∑ j ∈ Finset.range (bs.length / 2), (((bs.getD (2 * j) 0).toNat <<< 8) + (bs.getD (2 * j + 1) 0).toNat) := by
  induction bs using sumWords.induct with
  | case1 hi lo rest ih =>
    have hlen : (hi :: lo :: rest).length / 2 = rest.length / 2 + 1 := Nat.add_div_right _ Nat.two_pos
    rw [sumWords, ih, hlen, Finset.sum_range_succ', Nat.add_comm]
    rfl
  | case2 b => simp [sumWords]
  | case3 => simp [sumWords]

theorem sumWords_append {bs : List Byte} (h : bs.length % 2 = 0) (l : List Byte) :
    sumWords (bs ++ l) = sumWords bs + sumWords l := by
  induction bs using sumWords.induct with
  | case1 hi lo rest ih =>
    have hrest : rest.length % 2 = 0 := by rwa [← Nat.add_mod_right]
    simp only [List.cons_append, sumWords, ih hrest, Nat.add_assoc]
  | case2 b => simp at h
  | case3 => simp [sumWords]

theorem padded_of_even {bs : List Byte} (h : bs.length % 2 = 0) : padded bs = bs := if_neg (by omega)

theorem padded_append {bs : List Byte} (h : bs.length % 2 = 0) (l : List Byte) :
    padded (bs ++ l) = bs ++ padded l := by
  have hparity : (bs ++ l).length % 2 = l.length % 2 := by rw [List.length_append]; omega
  rw [padded, padded, hparity]
  split_ifs
  · exact List.append_assoc ..
  · rfl

/-- Bytes after an even number of bytes add their own words. -/
theorem wordSum_append {bs : List Byte} (h : bs.length % 2 = 0) (l : List Byte) :
    wordSum (bs ++ l) = wordSum bs + wordSum l := by
  rw [wordSum, padded_append h, sumWords_append h, wordSum, padded_of_even h, wordSum]

theorem firstByte_toNat (w : Half) : (firstByte w).toNat = w.toNat / 256 := by
  have := w.isLt
  simp only [firstByte, BitVec.extractLsb'_toNat, Nat.shiftRight_eq_div_pow]
  omega

theorem secondByte_toNat (w : Half) : (secondByte w).toNat = w.toNat % 256 := by
  simp only [secondByte, BitVec.extractLsb'_toNat, Nat.shiftRight_eq_div_pow]
  omega

theorem wordSum_two_bytes (w : Half) : wordSum [firstByte w, secondByte w] = w.toNat := by
  rw [wordSum, padded_of_even (by simp), sumWords, sumWords, firstByte_toNat, secondByte_toNat, Nat.shiftLeft_eq]
  omega

/-! ### The checksum (R56) -/

theorem csum_toNat (bs : List Byte) : (csum bs).toNat = 0xFFFF - fold (wordSum bs) := complement16_toNat _

/-- R55: a positive multiple of `0xFFFF` folds to `0xFFFF`, whose complement is zero. -/
theorem csum_eq_zero {bs : List Byte} (hpos : 0 < wordSum bs) (hmod : wordSum bs % 0xFFFF = 0) : csum bs = 0 := by
  rw [← BitVec.toNat_inj, csum_toNat]
  have hle := fold_le (wordSum bs)
  have hcongr := fold_mod (wordSum bs)
  have hzero := fold_eq_zero_iff (wordSum bs)
  change _ = 0
  omega

/-! ### feed as one's-complement addition (R57) -/

theorem onesAdd_eq_mod_add_div {a v : Nat} (ha : a < 2 ^ 32) (hv : v < 2 ^ 32) :
    onesAdd a v = (a + v) % 2 ^ 32 + (a + v) / 2 ^ 32 := by
  rw [onesAdd]; split <;> omega

/-- Two end-around carries are one, when the addends together fit in 32 bits. -/
theorem onesAdd_onesAdd {a u v : Nat} (ha : a < 2 ^ 32) (huv : u + v < 2 ^ 32) :
    onesAdd (onesAdd a u) v = onesAdd a (u + v) := by
  simp only [onesAdd]; split_ifs <;> omega

theorem placedByte_eq_byteWeight_mul (s : State) (b : Byte) :
    placedByte s b = byteWeight s.count * b.toNat := by
  rw [placedByte_eq, byteWeight]; split_ifs <;> omega

theorem feed_acc_toNat (b : Byte) (s : State) :
    (feed b s).acc.toNat = onesAdd s.acc.toNat (byteWeight s.count * b.toNat) := by
  have hle := placedByte_le s b
  rw [feed_acc, endAroundAdd_toNat _ (by omega), onesAdd, placedByte_eq_byteWeight_mul]

theorem feed_count_toNat (b : Byte) (s : State) : (feed b s).count.toNat = (s.count.toNat + 1) % 2 ^ 32 :=
  BitVec.toNat_add s.count 1

/-- R61: the second byte of a word goes where the first does not. -/
theorem byteWeight_feed (b : Byte) (s : State) :
    byteWeight (feed b s).count = if s.count.toNat % 2 = 0 then 1 else 256 := by
  rw [byteWeight, feed_count_toNat]; split_ifs <;> omega

/-- R61: the two bytes of a word make up the word, or the word with its bytes exchanged at an odd position. -/
theorem byteWeights_mul_bytes (w : Half) (b : Byte) (s : State) :
    byteWeight s.count * (firstByte w).toNat + byteWeight (feed b s).count * (secondByte w).toNat
      = if s.count.toNat % 2 = 0 then w.toNat else w.toNat / 2 ^ 8 + w.toNat % 2 ^ 8 * 2 ^ 8 := by
  rw [byteWeight_feed, byteWeight, firstByte_toNat, secondByte_toNat]
  split_ifs <;> omega

theorem feed_feed_acc_toNat (w : Half) (s : State) :
    (feed (secondByte w) (feed (firstByte w) s)).acc.toNat = onesAdd s.acc.toNat
      (if s.count.toNat % 2 = 0 then w.toNat else w.toNat / 2 ^ 8 + w.toNat % 2 ^ 8 * 2 ^ 8) := by
  have hw := w.isLt
  have hbytes := byteWeights_mul_bytes w (firstByte w) s
  rw [feed_acc_toNat, feed_acc_toNat, onesAdd_onesAdd s.acc.isLt (by rw [hbytes]; split_ifs <;> omega), hbytes]

/-! ### The stream after commands, whatever state they start from -/

theorem feed_keeps_streamSame {s t : State} (h : StreamSame s t) (b : Byte) : StreamSame (feed b s) (feed b t) := by
  obtain ⟨hacc, hcount⟩ := h
  have hplace : placedByte t b = placedByte s b := by rw [placedByte, oddFlag, hcount]; rfl
  exact ⟨by rw [feed_acc, feed_acc, hacc, hplace], by rw [feed_count, feed_count, hcount]⟩

theorem effect_keeps_streamSame {s t : State} (h : StreamSame s t) (i : Instr) :
    StreamSame (effect i s) (effect i t) := by
  cases i with
  | clr => exact ⟨rfl, rfl⟩
  | addb b => exact feed_keeps_streamSame h b
  | addw w => exact feed_keeps_streamSame (feed_keeps_streamSame h _) _
  | nop | build | clrerr => exact ⟨h.acc, h.count⟩

/-- The state after the commands of a list. -/
def effects : List Instr → State → State
  | [], s => s
  | i :: rest, s => effects rest (effect i s)

theorem execAll_eq (l : List Instr) (s : State) : execAll l s = .next (effects l s) := by
  induction l generalizing s with
  | nil => rfl
  | cons i rest ih => rw [execAll, exec_eq]; exact ih (effect i s)

theorem effects_keeps_streamSame {s t : State} (h : StreamSame s t) (l : List Instr) :
    StreamSame (effects l s) (effects l t) := by
  induction l generalizing s t with
  | nil => exact h
  | cons i rest ih => exact ih (effect_keeps_streamSame h i)

/-- R59: after CLR the commands find the stream of the reset state. -/
theorem effects_clr_streamSame (l : List Instr) (s : State) :
    StreamSame (effects l State.reset) (effects (.clr :: l) s) :=
  effects_keeps_streamSame (s := State.reset) (t := effect .clr s) ⟨rfl, rfl⟩ l

/-! ### RESULT for a given ACC (R62) -/

theorem memRead_result_of_acc {s : State} {a w : Word} (ha : s.acc = a)
    (hw : (complement16 (fold a.toNat)).setWidth 32 = w) : memRead 0x0C .four s = .ok w := by
  rw [memRead_result, ha, hw]

/-! ### What the stream commands leave alone -/

theorem effect_recordSame {i : Instr} (hi : i ≠ .clrerr) (s : State) : RecordSame s (effect i s) := by
  cases i with
  | clrerr => exact absurd rfl hi
  | _ => exact ⟨rfl, rfl⟩

theorem effect_hostSame (i : Instr) (s : State) : HostSame s (effect i s) :=
  ⟨effect_inputs i s, effect_responses i s⟩

theorem setStream_self {s : State} {a c : Word} (ha : s.acc = a) (hc : s.count = c) : s.setStream a c = s := by
  rw [← ha, ← hc]; rfl

/-! ### The statements -/

/-- Settles O20: the loop is `fold_unfold`, and it ends at `0xFFFF` or below. -/
theorem foldIsTheSourceLoop : Obligations.FoldIsTheSourceLoop :=
  fun x => ⟨fold_unfold x, fold_le x⟩

/-- Settles O22: the recursive sum over the padded sequence is the indexed one. -/
theorem csumIsTheFoldedWordSum : Obligations.CsumIsTheFoldedWordSum := by
  refine ⟨?_, by decide⟩
  intro bs p S
  have hsum : wordSum bs = S := sumWords_eq_sum p
  rw [csum_toNat, hsum]

/-- Settles O23: with `T` the word sum around the field, the field's value is `0xFFFF - fold T`, which makes the whole
sum a positive multiple of `0xFFFF`. -/
theorem checksumVerifiesItself : Obligations.ChecksumVerifiesItself := by
  intro before after heven C
  have hsum (w : Half) :
      wordSum (before ++ [firstByte w, secondByte w] ++ after) = wordSum before + w.toNat + wordSum after := by
    rw [wordSum_append (by simpa using heven), wordSum_append heven, wordSum_two_bytes]
  have hC : C.toNat = 0xFFFF - fold (wordSum before + wordSum after) :=
    (csum_toNat _).trans (congrArg (0xFFFF - fold ·) (hsum 0))
  have hle := fold_le (wordSum before + wordSum after)
  have hmod := fold_mod (wordSum before + wordSum after)
  have hzero := fold_eq_zero_iff (wordSum before + wordSum after)
  have hfull : wordSum (before ++ [C.extractLsb' 8 8, C.extractLsb' 0 8] ++ after) = _ := hsum C
  apply csum_eq_zero <;> rw [hfull, hC] <;> omega

/-- Settles O13: the byte's place is its weight, and the sum's two cases are one formula. -/
theorem feedAddsWithEndAroundCarry : Obligations.FeedAddsWithEndAroundCarry := by
  intro b s v t
  have hb := b.isLt
  have hv : byteWeight s.count * b.toNat = v := by
    simp only [v, byteWeight]; split_ifs <;> omega
  refine ⟨?_, feed_count_toNat b s, effect_frameSame (i := .addb b) (by simp) s,
    effect_recordSame (i := .addb b) (by simp) s, effect_hostSame (.addb b) s⟩
  rw [feed_acc_toNat, hv, onesAdd_eq_mod_add_div s.acc.isLt]
  simp only [v]; split_ifs <;> omega

/-- Settles O12: CLR has one encoding, writes ACC and COUNT and nothing else. -/
theorem clrStartsANewStream : Obligations.ClrStartsANewStream := by
  refine ⟨fun v => decode_toOption_eq_some_iff.trans eq_comm, fun v hop hne => ?_, fun s => ?_⟩
  · refine raisesIllegal_of_opcode (c := 0x01) hop fun i hi h => hne ?_
    rw [← h, eq_clr_of_opcode hi]; rfl
  · exact ⟨_, exec_eq .clr s, rfl, rfl, oddFlag_eq _, rfl, rfl,
      memRead_result_of_acc (a := 0) rfl (by decide),
      effect_frameSame (by decide) s, effect_recordSame (by decide) s, effect_hostSame .clr s, setStream_self⟩

/-- Settles O14: ADDB is one feed; a longer operand than a byte is no word of ADDB. -/
theorem addbFeedsOneByte : Obligations.AddbFeedsOneByte := by
  refine ⟨fun b => ?_, fun v hop hbig => ?_, fun b s => ?_, fun s => ?_⟩
  · rw [addbBits_add_operand, decode_encode]
  · refine raisesIllegal_of_opcode (c := 0x02) hop fun i hi h => ?_
    obtain ⟨b, rfl⟩ := eq_addb_of_opcode hi
    rw [← h, encode_addb_toNat] at hbig
    have := b.isLt
    omega
  · exact ⟨_, exec_eq (.addb b) s, feed_acc_toNat b s, feed_count_toNat b s, oddFlag_feed b s,
      effect_frameSame (by simp) s, effect_recordSame (by simp) s, effect_hostSame (.addb b) s⟩
  · obtain ⟨hacc, hcount⟩ := effects_clr_streamSame [.addb 0xAB] s
    obtain ⟨hacc', hcount'⟩ := effects_clr_streamSame [.addb 0xAB, .addb 0xCD] s
    exact ⟨_, _, _, exec_eq .clr s, exec_eq (.addb 0xAB) _, hacc, hcount, oddFlag_eq _,
      memRead_result_of_acc hacc (by decide), exec_eq (.addb 0xCD) _, hacc', hcount',
      memRead_result_of_acc hacc' (by decide)⟩

/-- Settles O15: ADDW is two feeds, whose two carries are one. -/
theorem addwFeedsTwoBytes : Obligations.AddwFeedsTwoBytes := by
  refine ⟨fun w => ?_, fun v hop hrsv => ?_, fun w s => ?_, fun s => ?_, fun s => ?_⟩
  · rw [addwBits_add_operand, decode_encode]
  · refine raisesIllegal_of_opcode (c := 0x03) hop fun i hi h => ?_
    obtain ⟨w, rfl⟩ := eq_addw_of_opcode hi
    rw [← h, encode_addw_toNat] at hrsv
    have := w.isLt
    omega
  · refine ⟨_, exec_eq (.addw w) s, feed_feed_acc_toNat w s, ?_, ?_, effect_frameSame (by simp) s,
      effect_recordSame (by simp) s, effect_hostSame (.addw w) s, _, exec_eq (.addb _) s, exec_eq (.addb _) _⟩
    · rw [effect, feed_count_toNat, feed_count_toNat]; omega
    · rw [effect, oddFlag_feed, oddFlag_feed, Bool.not_not]
  · exact ⟨_, _, exec_eq .clr s, exec_eq (.addw 0xFFFF) _,
      memRead_result_of_acc (effects_clr_streamSame [.addw 0xFFFF] s).acc (by decide)⟩
  · obtain ⟨hacc, hcount⟩ := effects_clr_streamSame [.addw 0x0001, .addw 0xF203, .addw 0xF4F5, .addw 0xF6F7] s
    exact ⟨_, execAll_eq _ s, hacc, hcount, memRead_result_of_acc hacc (by decide)⟩

end Sys2Proof.Machine
end

section
/-! PROOFS. The Echo Request formatter (spec 41_formatter.md): the image as the constant bytes of R69, the frame words it
gives, and the statement of the family assembled from them. -/

namespace Sys2Proof

theorem eq_build_of_opcode {i : Instr} (h : opcode i = 0x04) : i = .build := by
  cases i with
  | build => rfl
  | _ => simp [opcode] at h

end Sys2Proof

namespace Sys2Proof.Machine

/-! ### The bytes of the image (R67 to R69) -/

/-- R67: the type, the two bytes of the checksum field, and zero everywhere else. -/
theorem imageWith_getD (c : Half) (i : Nat) :
    (imageWith c).getD i 0x00
      = if i = 0 then 0x08 else if i = 2 then firstByte c else if i = 3 then secondByte c else 0x00 := by
  rw [imageWith_eq]
  match i with
  | 0 | 1 | 2 | 3 => rfl
  | n + 4 => exact List.getElem?_getD_replicate_default_eq (0x00 : Byte) 68 n

/-- R69: FRAME after BUILD holds the finished image. -/
theorem echoFrame_getElem {j : Nat} (hj : j < 72) : echoFrame[j] = imageByte j :=
  (echoFrame_byte ⟨j, hj⟩).trans (imageWith_getD 0xF7FF j)

theorem imageByte_eq_zero {i : Nat} (h : 4 ≤ i) : imageByte i = 0x00 := by
  simp [imageByte, show i ≠ 0 ∧ i ≠ 2 ∧ i ≠ 3 by omega]

/-! ### The image in the FRAME registers (R26) -/

/-- The header's first word is FRAME0. -/
theorem frameWord_echoFrame_zero : frameWord echoFrame 0 = 0x0800F7FF := by
  simp only [frameWord, echoFrame_getElem]; rfl

theorem frameWord_echoFrame_succ (k : Fin 17) : frameWord echoFrame k.succ = 0x00000000 := by
  have hk : 4 ≤ 4 * k.succ.val := by rw [Fin.val_succ]; omega
  simp (disch := omega) only [frameWord, echoFrame_getElem, imageByte_eq_zero]; rfl

theorem frame_offset_succ (k : Fin 17) : (Reg.frame k.succ).offset = BitVec.ofNat 8 (0x44 + 4 * k.val) := by
  rw [Reg.offset, Fin.val_succ, show 0x40 + 4 * (k.val + 1) = 0x44 + 4 * k.val by omega]

/-! ### The statement -/

/-- Settles O16: BUILD has one encoding and writes a constant image; each read is that of a register. -/
theorem buildFormatsTheEchoRequest : Obligations.BuildFormatsTheEchoRequest := by
  refine ⟨fun v => decode_toOption_eq_some_iff.trans eq_comm, fun v hop hne => ?_, fun s => ?_, ?_⟩
  · refine raisesIllegal_of_opcode (c := 0x04) hop fun i hi h => hne ?_
    rw [← h, eq_build_of_opcode hi]; rfl
  · refine ⟨_, exec_eq .build s, ?_, rfl, rfl, rfl, ⟨rfl, rfl⟩, effect_recordSame (by decide) s,
      effect_hostSame .build s, exec_eq .build _⟩
    intro c i
    have hc : c = 0xF7FF := imageChecksum_eq
    rw [hc]
    exact echoFrame_getElem i.isLt
  · refine ⟨_, exec_eq .build State.reset, ?_, memRead_status _, fun k => ?_⟩
    · exact (memRead_offset _ (.frame 0)).trans (congrArg _ frameWord_echoFrame_zero)
    · rw [← frame_offset_succ, memRead_offset]
      exact congrArg _ (frameWord_echoFrame_succ k)

end Sys2Proof.Machine
end

section
/-! PROOFS. The control commands NOP and CLRERR (spec 42_control.md): the one word of a command without an operand, the
error record that is already clear, and the statements of the family assembled from them. -/

namespace Sys2Proof.Machine

/-! ### A command without an operand has one word (R44, R46) -/

/-- Without an operand the opcode is the whole command. -/
theorem eq_of_opcode_eq {i j : Instr} (hi : feeds i = false) (h : opcode j = opcode i) : j = i := by
  cases i with
  | addb | addw => cases hi
  | nop | clr | build | clrerr => cases j <;> simp [opcode] at h ⊢

/-- R46, R49: beside the word of a command without an operand, every word with its OP is illegal. -/
theorem raisesIllegal_of_ne_encode {i : Instr} (hi : feeds i = false) {v : Word}
    (hop : v.toNat / 2 ^ 24 = (opcode i).toNat) (hne : v ≠ encode i) : raisesIllegal v :=
  raisesIllegal_of_opcode hop fun j hj hv => hne (by rw [← hv, eq_of_opcode_eq hi hj])

/-! ### The error record (R73) -/

theorem clearErrorRecord_self {s : State} (hcause : s.errCause.code = 0) (hinfo : s.errInfo = 0) :
    clearErrorRecord s = s := by
  rw [clearErrorRecord, ← (errCause_code_eq_zero_iff s.errCause).1 hcause, ← hinfo]; rfl

/-- Only CLRERR changes ERRCAUSE. -/
theorem eq_clrerr_of_errCause_ne {i : Instr} {s u : State} (h : exec i s = .next u)
    (hne : u.errCause.code ≠ s.errCause.code) : i = .clrerr := by
  by_contra hi
  rw [exec_eq] at h
  cases h
  exact hne (congrArg ErrCause.code (effect_recordSame hi s).cause)

/-! ### The statements -/

/-- Settles O17: CLRERR has one encoding, writes the error record and nothing else, and no other command writes it. -/
theorem clrerrClearsTheErrorRecord : Obligations.ClrerrClearsTheErrorRecord := by
  refine ⟨fun v => decode_toOption_eq_some_iff.trans eq_comm,
    fun v => raisesIllegal_of_ne_encode (i := .clrerr) rfl, fun s => ?_⟩
  exact ⟨_, exec_eq .clrerr s, rfl, rfl, rfl, rfl, rfl, ⟨rfl, rfl⟩, effect_frameSame (by decide) s,
    effect_hostSame .clrerr s, clearErrorRecord_self, fun i u => eq_clrerr_of_errCause_ne⟩

/-- Settles O11: NOP has one encoding, the word zero, and its write only answers. -/
theorem nopChangesNothing : Obligations.NopChangesNothing :=
  ⟨fun _ => decode_toOption_eq_some_iff.trans eq_comm, fun _ => raisesIllegal_of_ne_encode (i := .nop) rfl,
    exec_eq .nop, step_write_command (decode_encode .nop)⟩

end Sys2Proof.Machine
end

section
/-! PROOFS. Bus errors (spec 60_exceptions.md): every access and every command completes, and an access errs exactly
for the causes of the table, which the two checks of an access give it. -/

namespace Sys2Proof.Machine

section
variable {s : State} {rest : List Input} {off : BitVec 8} {n : AccessSize} {v : Word} {a : Access} {c : ErrCause}
  {info : Word} {e : BusError}

/-! ### An access errs or is served (R86) -/

/-- A read raises the error of its check, or answers a value. -/
theorem step_read_cases (s : State) (rest : List Input) (off : BitVec 8) (n : AccessSize) :
    (∃ e, memRead off n (s.setInputs rest) = .error e
      ∧ step (s.setInputs (.access (.read off n) :: rest)) = .next (afterError s rest e.cause e.info))
    ∨ ∃ w, step (s.setInputs (.access (.read off n) :: rest)) = .next ((s.setInputs rest).respond (.okRead w)) := by
  cases h : memRead off n (s.setInputs rest) with
  | error e => exact .inl ⟨e, rfl, step_read_error s rest h⟩
  | ok w => exact .inr ⟨w, by rw [step_setInputs_cons, perform, hostRead_eq, h]⟩

/-- A write raises the error of its check, or its command runs and is answered Ok. -/
theorem step_write_cases (s : State) (rest : List Input) (off : BitVec 8) (n : AccessSize) (v : Word) :
    (∃ e, acceptWrite off n v = .error e
      ∧ step (s.setInputs (.access (.write off n v) :: rest)) = .next (afterError s rest e.cause e.info))
    ∨ ∃ i, step (s.setInputs (.access (.write off n v) :: rest))
        = .next ((effect i (s.setInputs rest)).respond .okWrite) := by
  cases h : acceptWrite off n v with
  | error e => exact .inl ⟨e, rfl, step_write_error s rest h⟩
  | ok i =>
    obtain ⟨rfl, rfl, hv⟩ := acceptWrite_ok.1 h
    exact .inr ⟨i, step_write_command hv s rest⟩

/-! ### The checks raise the table's causes (R74) -/

theorem memRead_of_causeOf (h : causeOf (.read off n) c info) (s : State) : memRead off n s = .error ⟨c, info⟩ := by
  rcases h with ⟨hbad, rfl, rfl⟩ | ⟨hlegal, hmap, rfl, rfl⟩
  · exact memRead_badAccess hbad s
  · exact memRead_unmapped hlegal hmap s

theorem acceptWrite_of_causeOf (h : causeOf (.write off n v) c info) : acceptWrite off n v = .error ⟨c, info⟩ := by
  rcases h with ⟨hbad, rfl, rfl⟩ | ⟨hlegal, hmap, rfl, rfl⟩ | ⟨rfl, hmap, hne, rfl, rfl⟩ | ⟨rfl, rfl, hv, rfl, rfl⟩
  · exact acceptWrite_badAccess hbad v
  · exact acceptWrite_unmapped hlegal hmap v
  · obtain ⟨r, rfl⟩ := exists_offset_of_isMapped hmap
    exact acceptWrite_offset (fun hr => hne (by rw [hr]; rfl)) v
  · exact acceptWrite_illegal hv

theorem causeOf_of_memRead (h : memRead off n s = .error e) : causeOf (.read off n) e.cause e.info := by
  by_cases hbad : n ≠ .four ∨ off.toNat % 4 ≠ 0
  · cases (memRead_badAccess hbad s).symm.trans h
    exact .inl ⟨hbad, rfl, rfl⟩
  have hlegal : n = .four ∧ off.toNat % 4 = 0 := by tauto
  by_cases hmap : isMapped off.toNat = true
  · obtain ⟨r, rfl⟩ := exists_offset_of_isMapped hmap
    rw [hlegal.1, memRead_offset] at h
    cases h
  · have hmap : isMapped off.toNat = false := Bool.eq_false_iff.2 hmap
    cases (memRead_unmapped hlegal hmap s).symm.trans h
    exact .inr ⟨hlegal, hmap, rfl, rfl⟩

theorem causeOf_of_acceptWrite (h : acceptWrite off n v = .error e) : causeOf (.write off n v) e.cause e.info := by
  by_cases hbad : n ≠ .four ∨ off.toNat % 4 ≠ 0
  · cases (acceptWrite_badAccess hbad v).symm.trans h
    exact .inl ⟨hbad, rfl, rfl⟩
  have hlegal : n = .four ∧ off.toNat % 4 = 0 := by tauto
  by_cases hmap : isMapped off.toNat = false
  · cases (acceptWrite_unmapped hlegal hmap v).symm.trans h
    exact .inr (.inl ⟨hlegal, hmap, rfl, rfl⟩)
  obtain ⟨rfl, -⟩ := hlegal
  by_cases hcmd : off = 0x00
  · subst hcmd
    cases hd : decode v with
    | ok i => cases (acceptWrite_ok.2 ⟨rfl, rfl, hd⟩).symm.trans h
    | error _ =>
      have hv : (decode v).toOption = none := by rw [hd]; rfl
      cases (acceptWrite_illegal hv).symm.trans h
      exact .inr (.inr (.inr ⟨rfl, rfl, hv, rfl, rfl⟩))
  · have hmap : isMapped off.toNat = true := Bool.eq_true_of_not_eq_false hmap
    obtain ⟨r, rfl⟩ := exists_offset_of_isMapped hmap
    cases (acceptWrite_offset (fun hr => hcmd (by rw [hr]; rfl)) v).symm.trans h
    exact .inr (.inr (.inl ⟨rfl, hmap, hcmd, rfl, rfl⟩))

/-! ### The step records the table's cause (R75) -/

theorem step_of_causeOf (h : causeOf a c info) (s : State) (rest : List Input) :
    step (s.setInputs (.access a :: rest)) = .next (afterError s rest c info) := by
  cases a with
  | read off n => exact step_read_error s rest (memRead_of_causeOf h _)
  | write off n v => exact step_write_error s rest (acceptWrite_of_causeOf h)

/-- The table has a cause for every access that answers Err. -/
theorem exists_causeOf_of_err {t : State} (hstep : step (s.setInputs (.access a :: rest)) = .next t)
    (herr : t.responses = s.responses ++ [.err]) : ∃ c info, causeOf a c info := by
  cases a with
  | read off n =>
    rcases step_read_cases s rest off n with ⟨e, he, -⟩ | ⟨w, hw⟩
    · exact ⟨_, _, causeOf_of_memRead he⟩
    · cases hw.symm.trans hstep
      simp at herr
  | write off n v =>
    rcases step_write_cases s rest off n v with ⟨e, he, -⟩ | ⟨i, hi⟩
    · exact ⟨_, _, causeOf_of_acceptWrite he⟩
    · cases hi.symm.trans hstep
      simp [effect_responses] at herr

theorem setInputs_self {l : List Input} (h : s.inputs = l) : s.setInputs l = s := by
  rw [← h]; rfl

end

/-! ### The statements -/

/-- Settles O38: a cause of the table fixes the step, and an access that answers Err has one. -/
theorem errorsFollowTheTableOfCauses : Obligations.ErrorsFollowTheTableOfCauses := by
  refine ⟨⟨rfl, rfl, rfl, rfl, rfl⟩, fun s t a rest hin hstep => ?_⟩
  rw [← setInputs_self hin] at hstep
  have htable (c : ErrCause) (info : Word) (h : causeOf a c info) : t = afterError s rest c info :=
    Host.Outcome.next.inj (hstep.symm.trans (step_of_causeOf h s rest))
  refine ⟨fun herr => ?_, htable⟩
  obtain ⟨c, info, hcause⟩ := exists_causeOf_of_err hstep herr
  obtain rfl := htable c info hcause
  exact ⟨rfl, hcause⟩

/-- Settles O9, by the kind of input: an access errs or is served, and each way responds once. -/
theorem everyAccessCompletes : Obligations.EveryAccessCompletes := by
  intro s i rest
  match i with
  | .access (.read off n) =>
    rcases step_read_cases s rest off n with ⟨e, -, he⟩ | ⟨w, hw⟩
    · exact ⟨_, he, rfl, .inl rfl⟩
    · exact ⟨_, hw, rfl, .inr ⟨w, rfl⟩⟩
  | .access (.write off n v) =>
    rcases step_write_cases s rest off n v with ⟨e, -, he⟩ | ⟨i, hi⟩
    · exact ⟨_, he, rfl, .inl rfl⟩
    · exact ⟨_, hi, effect_inputs i _, .inr (congrArg (· ++ _) (effect_responses i _))⟩
  | .reset => exact ⟨_, rfl, rfl, rfl⟩

/-- Settles O10: `effect` is defined on every command and state, and RESULT is a register of every state. -/
theorem noDataValueCausesAnError : Obligations.NoDataValueCausesAnError := by
  intro i s
  exact ⟨_, exec_eq i s, effect_responses i s, fun hi => effect_recordSame hi s, _, memRead_offset _ .result⟩

end Sys2Proof.Machine
end

section
/-! PROOFS. Reset (spec 70_reset_and_hazards.md): the value each element takes (R89) and what the registers then read. -/

namespace Sys2Proof.Machine

/-! ### The elements after reset (R89) and the host's side (R88) -/

@[simp] theorem resetBlock_acc (s : State) : (resetBlock s).acc = 0x00000000 := rfl
@[simp] theorem resetBlock_count (s : State) : (resetBlock s).count = 0x00000000 := rfl
@[simp] theorem resetBlock_frame (s : State) : (resetBlock s).frame = Vector.replicate 72 0x00 := rfl
@[simp] theorem resetBlock_frameValid (s : State) : (resetBlock s).frameValid = false := rfl
@[simp] theorem resetBlock_errCause (s : State) : (resetBlock s).errCause = .noError := rfl
@[simp] theorem resetBlock_errInfo (s : State) : (resetBlock s).errInfo = 0x00000000 := rfl
@[simp] theorem resetBlock_inputs (s : State) : (resetBlock s).inputs = s.inputs := rfl
@[simp] theorem resetBlock_responses (s : State) : (resetBlock s).responses = s.responses := rfl

theorem resetBlock_frame_byte (s : State) (i : Fin 72) : (resetBlock s).frame[i] = 0x00 := by simp

/-- R88: the reset input resets the block and leaves the inputs behind it to arrive. -/
theorem step_reset (s : State) (rest : List Input) :
    step (s.setInputs (.reset :: rest)) = .next (resetBlock (s.setInputs rest)) :=
  step_setInputs_cons s .reset rest

/-! ### The registers after reset -/

/-- STATUS is zero when its three flags are: an even COUNT, no image in FRAME and no error recorded (R23). -/
theorem statusWord_eq_zero {s : State} (hodd : s.count.toNat % 2 = 0) (hvalid : s.frameValid = false)
    (hcause : s.errCause.code = 0) : statusWord s = 0 := by
  rw [← BitVec.toNat_inj, statusWord_toNat, hodd, hvalid, if_pos hcause]; rfl

/-- R62, R89: the checksum of the empty stream. -/
theorem memRead_result_resetBlock (s : State) : memRead 0x0C .four (resetBlock s) = .ok 0x0000FFFF :=
  memRead_result_of_acc (resetBlock_acc s) (by decide)

theorem memRead_status_resetBlock (s : State) : memRead 0x10 .four (resetBlock s) = .ok 0x00000000 := by
  rw [memRead_status, statusWord_eq_zero rfl rfl rfl]

theorem memRead_frame_resetBlock (s : State) (k : Fin 18) :
    memRead (Reg.frame k).offset .four (resetBlock s) = .ok 0x00000000 := by
  rw [memRead_offset, readReg, frameWord_eq_zero (resetBlock_frame_byte s)]

/-! ### The statement -/

/-- Settles O52: the step is `resetBlock`, whose elements and reads are the table's. -/
theorem resetSetsEveryElement : Obligations.ResetSetsEveryElement := by
  intro s rest
  exact ⟨_, step_reset s rest, resetBlock_acc _, resetBlock_count _, resetBlock_frame_byte _, resetBlock_frameValid _,
    congrArg _ (resetBlock_errCause _), resetBlock_errInfo _, resetBlock_inputs _, resetBlock_responses _,
    memRead_result_resetBlock _, memRead_status_resetBlock _, memRead_frame_resetBlock _⟩

end Sys2Proof.Machine
end

section
/-! PROOFS. The legal words (spec 30_encoding.md R47 to R49); the state one input leaves, as a function, and what an
input can be: reset, a command, or an access that only answers; fold as a residue and the word sum of a longer stream
(40_checksum.md R55, R56); the invariant of the stream (R58), and that of FRAME and the error record (10_state.md R14 to
R17). -/

namespace Sys2Proof

/-! ### The legal words (R47 to R49) -/

theorem encode_injective : Function.Injective encode := fun i j h =>
  Except.ok.inj ((decode_encode i).symm.trans (by rw [h, decode_encode]))

/-- The commands, sorted by how many bits their operand has. -/
def instrEquiv : Instr ≃ Fin 4 ⊕ Byte ⊕ Half where
  toFun
    | .nop => .inl 0
    | .clr => .inl 1
    | .build => .inl 2
    | .clrerr => .inl 3
    | .addb b => .inr (.inl b)
    | .addw w => .inr (.inr w)
  invFun
    | .inl 0 => .nop
    | .inl 1 => .clr
    | .inl 2 => .build
    | .inl 3 => .clrerr
    | .inr (.inl b) => .addb b
    | .inr (.inr w) => .addw w
  left_inv i := by cases i <;> rfl
  right_inv
    | .inl 0 | .inl 1 | .inl 2 | .inl 3 | .inr (.inl _) | .inr (.inr _) => rfl

theorem natCard_bitVec (n : Nat) : Nat.card (BitVec n) = 2 ^ n := by
  rw [Nat.card_eq_fintype_card, ← FinEnum.card_eq_fintypeCard, FinEnum.card_bitVec]

theorem natCard_instr : Nat.card Instr = 4 + 2 ^ 8 + 2 ^ 16 := by
  rw [Nat.card_congr instrEquiv, Nat.card_sum, Nat.card_sum, Nat.card_fin, natCard_bitVec, natCard_bitVec,
    Nat.add_assoc]

/-! ### The statements about words -/

/-- Settles O4: it is `decode_encode`. -/
theorem decodeOfEncodeIsTheCommand : Obligations.DecodeOfEncodeIsTheCommand := decode_encode

/-- Settles O5: a word is the concatenation of the three fields that the decoder has checked. -/
theorem legalWordsAreEncodings : Obligations.LegalWordsAreEncodings := fun _ _ => decode_eq_ok_iff.1

/-- Settles O6: the legal words are the range of `encode`, which is one to one, so there are as many as commands. -/
theorem legalWordsNumber65796 : Obligations.LegalWordsNumber65796 := by
  refine ⟨?_, by norm_num⟩
  have hrange (v : Word) : (∃ i, decode v = .ok i) ↔ v ∈ Set.range encode := by
    simp only [decode_eq_ok_iff, Set.mem_range]
  rw [Nat.card_congr (Equiv.subtypeEquivRight hrange), ← natCard_instr]
  exact (Nat.card_congr (Equiv.ofInjective encode encode_injective)).symm

/-- Settles O1: each legal word is the word of its command, and the decoder is run on each of the seven others. -/
theorem specWordsDecode : Obligations.SpecWordsDecode := by
  refine ⟨decode_encode .nop, decode_encode .clr, decode_encode (.addb 0xFF), decode_encode (.addw 0xFFFF),
    decode_encode .build, decode_encode .clrerr, ?_⟩
  simp only [List.forall_mem_cons]
  exact ⟨rfl, rfl, rfl, rfl, rfl, rfl, rfl, nofun⟩

end Sys2Proof

namespace Sys2Proof.Machine

/-! ### The state after one input -/

/-- The state after an input, with the same inputs to come. -/
def afterInput (i : Input) (s : State) : State :=
  match i with
  | .access (.read off n) =>
    match memRead off n s with
    | .ok v => s.respond (.okRead v)
    | .error e => raiseBusError e s
  | .access (.write off n v) =>
    match acceptWrite off n v with
    | .ok c => (effect c s).respond .okWrite
    | .error e => raiseBusError e s
  | .reset => resetBlock s

theorem memRead_setInputs (off : BitVec 8) (n : AccessSize) (s : State) (l : List Input) :
    memRead off n (s.setInputs l) = memRead off n s := by
  simp only [memRead, readReg_setInputs]

theorem effect_setInputs (c : Instr) (s : State) (l : List Input) :
    effect c (s.setInputs l) = (effect c s).setInputs l := by
  cases c <;> rfl

/-- R6, R42: a step takes the oldest input and leaves the state after it. -/
theorem step_setInputs_afterInput (i : Input) (rest : List Input) (s : State) :
    step (s.setInputs (i :: rest)) = .next ((afterInput i s).setInputs rest) := by
  rw [step_setInputs_cons]
  match i with
  | .access (.read off n) =>
    rw [perform, hostRead_eq, memRead_setInputs, afterInput]
    cases memRead off n s <;> rfl
  | .access (.write off n v) =>
    rw [perform, hostWrite_eq, afterInput]
    cases acceptWrite off n v with
    | ok c => simp only [effect_setInputs]; rfl
    | error e => rfl
  | .reset => rfl

theorem step_eq_afterInput {s : State} {i : Input} {rest : List Input} (h : s.inputs = i :: rest) :
    step s = .next ((afterInput i s).setInputs rest) := by
  rw [← step_setInputs_afterInput, setInputs_self h]

/-- What a step answers: the same state with no input pending, and else the state after the oldest input. -/
theorem step_eq_next_iff {s t : State} :
    step s = .next t ↔ s.inputs = [] ∧ t = s ∨ ∃ i rest, s.inputs = i :: rest ∧ t = (afterInput i s).setInputs rest := by
  rcases h : s.inputs with _ | ⟨i, rest⟩
  · simp [step_idle h, eq_comm]
  · simp [step_eq_afterInput h, eq_comm]

/-! ### The commands an input carries -/

/-- R43, R47: a command arrives as the one write of its word to CMD. -/
theorem commandOf_eq_some_iff {i : Input} {c : Instr} : commandOf i = some c ↔ i = .access (writeOf c) := by
  constructor
  · intro h
    match i with
    | .access (.write off n v) =>
      rw [commandOf] at h
      split_ifs at h with hcmd
      obtain ⟨rfl, rfl⟩ := hcmd
      rw [← decode_toOption_eq_some_iff.1 h]
      rfl
  · rintro rfl
    exact commandOf_write (decode_encode c)

theorem afterInput_writeOf (c : Instr) (s : State) :
    afterInput (.access (writeOf c)) s = (effect c s).respond .okWrite := by
  have haccept : acceptWrite Reg.cmd.offset .four (encode c) = .ok c :=
    acceptWrite_ok.2 ⟨rfl, rfl, decode_encode c⟩
  rw [writeOf, commandWrite, afterInput, haccept]

theorem commandOf_eq_none_of_acceptWrite {off : BitVec 8} {n : AccessSize} {v : Word} {e : BusError}
    (h : acceptWrite off n v = .error e) : commandOf (.access (.write off n v)) = none := by
  refine Option.eq_none_iff_forall_ne_some.2 fun c hc => ?_
  cases commandOf_eq_some_iff.1 hc
  cases h.symm.trans (acceptWrite_ok.2 ⟨rfl, rfl, decode_encode c⟩)

/-! ### What an input can be -/

/-- R74: a cause of the table and its information are a record the block can hold. -/
theorem recordOk_of_causeOf {a : Access} {c : ErrCause} {info : Word} (h : causeOf a c info) : recordOk c info := by
  have hoff (off : BitVec 8) : (off.setWidth 32 : Word).toNat = off.toNat := BitVec.toNat_setWidth_of_le (by decide)
  have hbad (off : BitVec 8) : recordOk .badAccess (off.setWidth 32) := by
    rw [recordOk, hoff]; exact off.isLt
  have hunmapped (off : BitVec 8) (hal : off.toNat % 4 = 0) (hmap : isMapped off.toNat = false) :
      recordOk .unmapped (off.setWidth 32) := by
    rw [recordOk, hoff]; exact ⟨off.isLt, hal, hmap⟩
  cases a with
  | read off n =>
    rcases h with ⟨-, rfl, rfl⟩ | ⟨⟨-, hal⟩, hmap, rfl, rfl⟩
    · exact hbad off
    · exact hunmapped off hal hmap
  | write off n v =>
    rcases h with ⟨-, rfl, rfl⟩ | ⟨⟨-, hal⟩, hmap, rfl, rfl⟩ | ⟨-, hmap, hne, rfl, rfl⟩ | ⟨-, -, hv, rfl, rfl⟩
    · exact hbad off
    · exact hunmapped off hal hmap
    · refine ⟨by rwa [hoff], fun h0 => hne (BitVec.eq_of_toNat_eq ?_)⟩
      rw [← hoff, h0]; rfl
    · exact hv

/-- Everything an input can do: reset the block; run the command it carries; or, carrying none, be answered with a value
or with an error of the table of causes. -/
theorem afterInput_cases (i : Input) (s : State) :
    (i = .reset ∧ afterInput i s = resetBlock s)
    ∨ (∃ c, commandOf i = some c ∧ afterInput i s = (effect c s).respond .okWrite)
    ∨ (i ≠ .reset ∧ commandOf i = none ∧ ∃ v, afterInput i s = s.respond (.okRead v))
    ∨ (i ≠ .reset ∧ commandOf i = none ∧ ∃ e, recordOk e.cause e.info ∧ afterInput i s = raiseBusError e s) := by
  match i with
  | .reset => exact .inl ⟨rfl, rfl⟩
  | .access (.read off n) =>
    cases h : memRead off n s with
    | ok v => exact .inr (.inr (.inl ⟨by simp, rfl, v, by rw [afterInput, h]⟩))
    | error e =>
      exact .inr (.inr (.inr ⟨by simp, rfl, e, recordOk_of_causeOf (causeOf_of_memRead h), by rw [afterInput, h]⟩))
  | .access (.write off n v) =>
    cases h : acceptWrite off n v with
    | ok c =>
      obtain ⟨rfl, rfl, hv⟩ := acceptWrite_ok.1 h
      exact .inr (.inl ⟨c, commandOf_write hv, by rw [afterInput, h]⟩)
    | error e =>
      exact .inr (.inr (.inr ⟨by simp, commandOf_eq_none_of_acceptWrite h, e,
        recordOk_of_causeOf (causeOf_of_acceptWrite h), by rw [afterInput, h]⟩))

/-! ### fold, as the residue it is (R55) -/

theorem fold_eq_iff {x : Nat} (hx : 0 < x) (y : Nat) :
    fold x = y ↔ 1 ≤ y ∧ y ≤ 0xFFFF ∧ y % 0xFFFF = x % 0xFFFF := by
  have hle := fold_le x
  have hmod := fold_mod x
  have hzero := fold_eq_zero_iff x
  constructor
  · rintro rfl; omega
  · omega

theorem fold_eq_fold {x y : Nat} (hzero : x = 0 ↔ y = 0) (hmod : x % 0xFFFF = y % 0xFFFF) : fold x = fold y := by
  have hlex := fold_le x
  have hley := fold_le y
  have hmodx := fold_mod x
  have hmody := fold_mod y
  have hzerox := fold_eq_zero_iff x
  have hzeroy := fold_eq_zero_iff y
  omega

theorem fold_of_le {x : Nat} (h : x ≤ 0xFFFF) : fold x = x := foldRounds_of_le x h

theorem foldRounds_succ (fuel x : Nat) :
    foldRounds (fuel + 1) x = if x > 0xFFFF then foldRounds fuel (foldStep x) else x := rfl

/-- One round is enough up to `0x1FFFE`, the most that a round leaves of 32 bits. -/
theorem foldRounds_one {x : Nat} (h : x ≤ 0x1FFFE) : foldRounds 1 x = fold x := by
  rw [foldRounds_succ, fold_unfold]
  split_ifs with hgt
  · have hle : foldStep x ≤ 0xFFFF := by rw [foldStep_eq]; omega
    rw [foldRounds_of_le 0 hle, fold_of_le hle]
  · rfl

theorem foldRounds_two {x : Nat} (h : x ≤ 0xFFFFFFFF) : foldRounds 2 x = fold x := by
  rw [foldRounds_succ, fold_unfold]
  split_ifs with hgt
  · exact foldRounds_one (by rw [foldStep_eq]; omega)
  · rfl

/-- Settles O21: fold keeps the residue, stays in range and is zero only for zero, which leaves one value. -/
theorem foldIsTheSumModuloFFFF : Obligations.FoldIsTheSumModuloFFFF :=
  ⟨fun _ => fold_of_le, fold_eq_zero_iff, fun _ y hx => fold_eq_iff hx y, fun _ => foldRounds_two⟩

/-! ### The word sum of a longer stream (R56) -/

theorem wordSum_single (b : Byte) : wordSum [b] = 256 * b.toNat := by
  have hpad : padded [b] = [b, 0x00] := if_pos (Nat.mod_eq_of_lt Nat.one_lt_two)
  rw [wordSum, hpad, sumWords, sumWords, Nat.shiftLeft_eq, Nat.mul_comm]
  rfl

theorem wordSum_pair (hi lo : Byte) : wordSum [hi, lo] = 256 * hi.toNat + lo.toNat := by
  rw [wordSum, padded_of_even (by simp), sumWords, sumWords, Nat.shiftLeft_eq, Nat.mul_comm]
  rfl

/-- A byte after an even number of bytes is the high half of a new word, after an odd number the low half of the last. -/
theorem wordSum_append_single (str : List Byte) (b : Byte) :
    wordSum (str ++ [b]) = wordSum str + (if str.length % 2 = 0 then 256 else 1) * b.toNat := by
  split_ifs with heven
  · rw [wordSum_append heven, wordSum_single]
  · obtain ⟨front, last, rfl⟩ := List.eq_nil_or_concat' str |>.resolve_left (by rintro rfl; simp at heven)
    have hfront : front.length % 2 = 0 := by rw [List.length_append, List.length_singleton] at heven; omega
    rw [List.append_assoc, List.singleton_append, wordSum_append hfront, wordSum_append hfront, wordSum_pair,
      wordSum_single]
    omega

/-! ### The stream of a state (R58) -/

theorem onesAdd_eq_zero_iff (a v : Nat) : onesAdd a v = 0 ↔ a + v = 0 := by
  rw [onesAdd]; split_ifs <;> omega

theorem onesAdd_mod (a v : Nat) : onesAdd a v % 0xFFFFFFFF = (a + v) % 0xFFFFFFFF := by
  rw [onesAdd]; split_ifs <;> omega

theorem word_eq_zero_iff (w : Word) : w = 0 ↔ w.toNat = 0 := BitVec.toNat_inj.symm

/-- The state's ACC as a number: zero exactly when the word sum is, and congruent to it. -/
theorem tracksStream_iff {s : State} {str : List Byte} :
    TracksStream s str ↔ s.count.toNat = str.length % 2 ^ 32 ∧ (s.acc.toNat = 0 ↔ wordSum str = 0)
      ∧ s.acc.toNat % 0xFFFFFFFF = wordSum str % 0xFFFFFFFF := by
  rw [← word_eq_zero_iff]
  constructor
  · rintro ⟨hcount, hzero, hnonzero⟩
    refine ⟨hcount, ⟨fun ha => not_not.1 fun hne => (hnonzero hne).1 ha, hzero⟩, ?_⟩
    by_cases h0 : wordSum str = 0
    · rw [hzero h0, h0]; rfl
    · exact (hnonzero h0).2
  · rintro ⟨hcount, hzero, hmod⟩
    exact ⟨hcount, hzero.2, fun hne => ⟨mt hzero.1 hne, hmod⟩⟩

theorem TracksStream.nil {s : State} (hacc : s.acc = 0) (hcount : s.count = 0) : TracksStream s [] :=
  ⟨by rw [hcount]; rfl, fun _ => hacc, fun h => absurd rfl h⟩

theorem TracksStream.of_streamSame {s t : State} {str : List Byte} (h : TracksStream s str) (hst : StreamSame s t) :
    TracksStream t str := by
  obtain ⟨hacc, hcount⟩ := hst
  exact ⟨by rw [hcount, h.count], by rw [hacc]; exact h.zero, by rw [hacc]; exact h.nonzero⟩

/-- R57, R58: the fed byte's weight is the one it has in the word sum, and the end-around carry keeps the residue modulo
`0xFFFFFFFF`, away from zero. -/
theorem tracksStream_feed {s : State} {str : List Byte} (h : TracksStream s str) (b : Byte) :
    TracksStream (feed b s) (str ++ [b]) := by
  obtain ⟨hcount, hzero, hmod⟩ := tracksStream_iff.1 h
  have hweight : byteWeight s.count = if str.length % 2 = 0 then 256 else 1 := by
    rw [byteWeight, hcount, Nat.mod_mod_of_dvd _ (by norm_num)]
  rw [tracksStream_iff, feed_acc_toNat, feed_count_toNat, wordSum_append_single, ← hweight, onesAdd_eq_zero_iff,
    onesAdd_mod, Nat.add_eq_zero_iff, Nat.add_eq_zero_iff, hzero]
  refine ⟨?_, Iff.rfl, Nat.ModEq.add_right _ hmod⟩
  rw [hcount, List.length_append, List.length_singleton, Nat.mod_add_mod]

/-- The stream after a command: empty after CLR, and else longer by the bytes the command feeds. -/
theorem tracksStream_effect {s : State} {str : List Byte} (h : TracksStream s str) (c : Instr) :
    TracksStream (effect c s) (if c = .clr then [] else str ++ fedBy c) := by
  cases c with
  | clr => exact .nil rfl rfl
  | addb b => exact tracksStream_feed h b
  | addw w => exact List.append_assoc str [_] [_] ▸ tracksStream_feed (tracksStream_feed h (firstByte w)) (secondByte w)
  | nop | build | clrerr => exact (List.append_nil str).symm ▸ h.of_streamSame ⟨rfl, rfl⟩

theorem streamAfter_of_command {i : Input} {c : Instr} (hc : commandOf i = some c) (str : List Byte) :
    streamAfter i str = if c = .clr then [] else str ++ fedBy c := by
  have hreset : i ≠ .reset := by rintro rfl; cases hc
  simp [streamAfter, startsStream, fedByInput, hc, hreset]

theorem streamAfter_of_no_command {i : Input} (hreset : i ≠ .reset) (hc : commandOf i = none) (str : List Byte) :
    streamAfter i str = str := by
  simp [streamAfter, startsStream, fedByInput, hc, hreset]

theorem tracksStream_afterInput {s : State} {str : List Byte} (h : TracksStream s str) (i : Input) :
    TracksStream (afterInput i s) (streamAfter i str) := by
  rcases afterInput_cases i s with ⟨rfl, heq⟩ | ⟨c, hc, heq⟩ | ⟨hreset, hc, v, heq⟩ | ⟨hreset, hc, e, -, heq⟩
  · rw [heq]; exact .nil rfl rfl
  · rw [heq, streamAfter_of_command hc]; exact (tracksStream_effect h c).of_streamSame ⟨rfl, rfl⟩
  · rw [heq, streamAfter_of_no_command hreset hc]; exact h.of_streamSame ⟨rfl, rfl⟩
  · rw [heq, streamAfter_of_no_command hreset hc]; exact h.of_streamSame ⟨rfl, rfl⟩

/-- Settles O24: with no input the state is the same; an input is reset, a command or neither. -/
theorem stepKeepsTheStreamSum : Obligations.StepKeepsTheStreamSum := by
  intro s t str h hstep
  rcases step_eq_next_iff.1 hstep with ⟨hin, rfl⟩ | ⟨i, rest, hin, rfl⟩
  · rwa [hin]
  · rw [hin]; exact (tracksStream_afterInput h i).of_streamSame ⟨rfl, rfl⟩

/-- Settles O25: ACC and COUNT are zero after reset. -/
theorem resetHoldsTheEmptyStream : Obligations.ResetHoldsTheEmptyStream := .nil rfl rfl

/-! ### The invariant of FRAME and the error record -/

theorem FrameOk.of_frameSame {s t : State} (h : FrameOk s) (hst : FrameSame s t) : FrameOk t := by
  obtain ⟨hbyte, hvalid⟩ := hst
  exact ⟨fun hv i => by rw [hbyte, h.unbuilt (hvalid ▸ hv)], fun hv i => by rw [hbyte, h.built (hvalid ▸ hv)]⟩

theorem frameOk_build (s : State) : FrameOk (effect .build s) :=
  ⟨nofun, fun _ i => echoFrame_getElem i.isLt⟩

theorem inv_resetBlock (s : State) : Inv (resetBlock s) :=
  ⟨⟨fun _ => resetBlock_frame_byte s, nofun⟩, rfl⟩

theorem inv_effect {s : State} (h : Inv s) (c : Instr) : Inv (effect c s) := by
  cases c with
  | build => exact ⟨frameOk_build s, h.record⟩
  | clrerr => exact ⟨h.frame.of_frameSame (.of_eq rfl rfl), rfl⟩
  | nop | clr | addb | addw => exact ⟨h.frame.of_frameSame (.of_eq rfl rfl), h.record⟩

theorem inv_afterInput {s : State} (h : Inv s) (i : Input) : Inv (afterInput i s) := by
  rcases afterInput_cases i s with ⟨-, heq⟩ | ⟨c, -, heq⟩ | ⟨-, -, v, heq⟩ | ⟨-, -, e, he, heq⟩ <;> rw [heq]
  · exact inv_resetBlock s
  · obtain ⟨hframe, hrecord⟩ := inv_effect h c
    exact ⟨hframe.of_frameSame (.of_eq rfl rfl), hrecord⟩
  · exact ⟨h.frame.of_frameSame (.of_eq rfl rfl), h.record⟩
  · exact ⟨h.frame.of_frameSame (.of_eq rfl rfl), he⟩

/-- Settles O50: reset and BUILD write the two FRAMEs there are, CLRERR and an erring access the records there are. -/
theorem stepKeepsFrameAndRecordConsistent : Obligations.StepKeepsFrameAndRecordConsistent := by
  intro s t h hstep
  rcases step_eq_next_iff.1 hstep with ⟨-, rfl⟩ | ⟨i, rest, -, rfl⟩
  · exact h
  · obtain ⟨hframe, hrecord⟩ := inv_afterInput h i
    exact ⟨hframe.of_frameSame (.of_eq rfl rfl), hrecord⟩

/-- Settles O51: the reset state is what the reset input makes of itself. -/
theorem resetMeetsTheInvariant : Obligations.ResetMeetsTheInvariant := inv_resetBlock State.reset

end Sys2Proof.Machine
end

section
/-! PROOFS. The stream's register view and what feeds it (spec 40_checksum.md R58, R62, R65, R66, R71): RESULT for a
stream, runs over a list of inputs, the bytes as the one thing that commands feed, and which inputs write which elements
of the state (10_state.md R12 to R17). -/

namespace Sys2Proof.Machine

/-! ### The statements on single inputs -/

/-- Settles O7: the step is `exec`'s state, which every command answers. -/
theorem stepRunsTheDecodedCommand : Obligations.StepRunsTheDecodedCommand := by
  intro s rest v i hin hv
  rw [← setInputs_self hin, step_write_command hv, exec_eq]
  rfl

/-- Settles O8: with no input, `step` answers its argument. -/
theorem noInputNoChange : Obligations.NoInputNoChange := fun _ => step_idle

/-- Settles O39: a register is found at its own offset, and at a mapped offset there is one. -/
theorem registerMapIsOneToOne : Obligations.RegisterMapIsOneToOne := by
  refine ⟨fun off r => ⟨offset_of_regAt, fun h => h ▸ regAt_offset r⟩, fun off => ⟨?_, fun hmap => ?_⟩⟩
  · rintro ⟨r, hr⟩
    rw [← offset_of_regAt hr]
    exact isMapped_offset r
  · obtain ⟨r, rfl⟩ := exists_offset_of_isMapped hmap
    exact ⟨r, regAt_offset r⟩

/-! ### RESULT and ACC for a stream (R58, R62) -/

/-- ACC and the word sum fold to the same number, so RESULT is the stream's checksum. -/
theorem TracksStream.memRead_result {s : State} {str : List Byte} (h : TracksStream s str) :
    memRead 0x0C .four s = .ok ((csum str).setWidth 32) := by
  obtain ⟨-, hzero, hmod⟩ := tracksStream_iff.1 h
  have hmod : s.acc.toNat % 0xFFFF = wordSum str % 0xFFFF := Nat.ModEq.of_dvd (by norm_num) hmod
  rw [Machine.memRead_result, fold_eq_fold hzero hmod, csum]

/-- Settles O26: RESULT by the residue of ACC, ODD and COUNT by the length. -/
theorem resultIsTheChecksumOfTheStream : Obligations.ResultIsTheChecksumOfTheStream := by
  intro s str h
  refine ⟨h.memRead_result, ?_, _, memRead_count s, h.count⟩
  rw [oddFlag_eq, h.count, decide_eq_true_iff, Nat.mod_mod_of_dvd _ (by norm_num)]

/-- A non-zero ACC of 32 bits has one value for its residue. -/
theorem TracksStream.acc_eq_wordSum {s : State} {str : List Byte} (h : TracksStream s str)
    (hfits : wordSum str ≤ 0xFFFFFFFF) : s.acc.toNat = wordSum str := by
  obtain ⟨-, hzero, hmod⟩ := tracksStream_iff.1 h
  have := s.acc.isLt
  omega

theorem sumWords_le (bs : List Byte) : sumWords bs ≤ bs.length / 2 * 0xFFFF := by
  induction bs using sumWords.induct with
  | case1 hi lo rest ih =>
    have := hi.isLt
    have := lo.isLt
    simp only [sumWords, Nat.shiftLeft_eq, List.length_cons]
    omega
  | case2 b => simp [sumWords]
  | case3 => simp [sumWords]

theorem padded_length_le (bs : List Byte) : (padded bs).length ≤ bs.length + 1 := by
  rw [padded]; split_ifs <;> simp

/-- R56: up to 65537 words, of at most `0xFFFF` each, fit in 32 bits. -/
theorem wordSum_le {bs : List Byte} (h : bs.length ≤ 131074) : wordSum bs ≤ 0xFFFFFFFF := by
  have hsum := sumWords_le (padded bs)
  have hlen := padded_length_le bs
  rw [wordSum]
  omega

/-- Settles O27: the residue below the modulus is the sum itself, and the bound counts words. -/
theorem shortStreamsSumExactly : Obligations.ShortStreamsSumExactly := fun _ _ h =>
  ⟨h.acc_eq_wordSum, fun hlen => ⟨wordSum_le hlen, h.acc_eq_wordSum (wordSum_le hlen)⟩⟩

/-! ### What an input does to ACC and COUNT (R12, R13, R58) -/

theorem feed_acc_ne_zero {s : State} (h : s.acc ≠ 0) (b : Byte) : (feed b s).acc ≠ 0 := by
  rw [ne_eq, word_eq_zero_iff] at h ⊢
  rw [feed_acc_toNat, onesAdd_eq_zero_iff]
  omega

theorem effect_acc_ne_zero {c : Instr} (hc : c ≠ .clr) {s : State} (h : s.acc ≠ 0) : (effect c s).acc ≠ 0 := by
  cases c with
  | clr => exact absurd rfl hc
  | addb b => exact feed_acc_ne_zero h b
  | addw w => exact feed_acc_ne_zero (feed_acc_ne_zero h _) _
  | nop | build | clrerr => exact h

theorem startsStream_iff {i : Input} : startsStream i = true ↔ i = .reset ∨ commandOf i = some .clr := by
  simp [startsStream]

/-- An input that is neither reset nor a command only answers. -/
theorem afterInput_streamSame {i : Input} (hreset : i ≠ .reset) (hnone : commandOf i = none) (s : State) :
    StreamSame s (afterInput i s) := by
  rcases afterInput_cases i s with ⟨hi, -⟩ | ⟨c, hc, -⟩ | ⟨-, -, v, heq⟩ | ⟨-, -, e, -, heq⟩
  · exact absurd hi hreset
  · rw [hnone] at hc; cases hc
  · rw [heq]; exact ⟨rfl, rfl⟩
  · rw [heq]; exact ⟨rfl, rfl⟩

/-- Settles O28: a feed keeps ACC from zero, and no other input writes it but CLR and reset. -/
theorem accNeverReturnsToZero : Obligations.AccNeverReturnsToZero := by
  intro s t i rest hin hstart hacc hstep
  rw [step_eq_afterInput hin] at hstep
  cases hstep
  have hstart : ¬(i = .reset ∨ commandOf i = some .clr) := by simp [← startsStream_iff, hstart]
  obtain ⟨hreset, hclr⟩ := not_or.1 hstart
  change (afterInput i s).acc ≠ 0
  cases hc : commandOf i with
  | some c =>
    rw [commandOf_eq_some_iff.1 hc, afterInput_writeOf]
    exact effect_acc_ne_zero (fun h => hclr (h ▸ hc)) hacc
  | none => rwa [(afterInput_streamSame hreset hc s).acc]

theorem effect_streamSame {c : Instr} (hclr : c ≠ .clr) (hfeeds : feeds c = false) (s : State) :
    StreamSame s (effect c s) := by
  cases c with
  | clr => exact absurd rfl hclr
  | addb | addw => cases hfeeds
  | nop | build | clrerr => exact ⟨rfl, rfl⟩

/-- Settles O47: an input that is not reset and carries no stream command leaves ACC and COUNT. -/
theorem onlyStreamCommandsWriteTheStream : Obligations.OnlyStreamCommandsWriteTheStream := by
  intro s t hstep hne
  rcases step_eq_next_iff.1 hstep with ⟨-, rfl⟩ | ⟨i, rest, hin, rfl⟩
  · exact absurd ⟨rfl, rfl⟩ hne
  refine ⟨i, rest, hin, ?_⟩
  rw [startsStream_iff]
  by_contra! hnot
  obtain ⟨⟨hreset, hclr⟩, hfeeds⟩ := hnot
  have hsame : StreamSame s (afterInput i s) := by
    cases hc : commandOf i with
    | some c =>
      obtain ⟨hacc, hcount⟩ := effect_streamSame (fun h => hclr (h ▸ hc)) (by simpa using hfeeds c hc) s
      rw [commandOf_eq_some_iff.1 hc, afterInput_writeOf]
      exact ⟨hacc, hcount⟩
    | none => exact afterInput_streamSame hreset hc s
  exact hne ⟨hsame.acc, hsame.count⟩

theorem afterInput_keeps_streamSame {s t : State} (h : StreamSame s t) (i : Input) :
    StreamSame (afterInput i s) (afterInput i t) := by
  by_cases hreset : i = .reset
  · subst hreset
    exact ⟨rfl, rfl⟩
  cases hc : commandOf i with
  | some c =>
    obtain ⟨hacc, hcount⟩ := effect_keeps_streamSame h c
    rw [commandOf_eq_some_iff.1 hc, afterInput_writeOf, afterInput_writeOf]
    exact ⟨hacc, hcount⟩
  | none =>
    obtain ⟨hacc, hcount⟩ := afterInput_streamSame hreset hc s
    obtain ⟨hacc', hcount'⟩ := afterInput_streamSame hreset hc t
    exact ⟨by rw [hacc', h.acc, hacc], by rw [hcount', h.count, hcount]⟩

/-- Settles O34, by the same three kinds of input. -/
theorem streamIsIndependentOfTheRest : Obligations.StreamIsIndependentOfTheRest := by
  intro s t s' t' hin h hs ht
  rcases hi : s.inputs with _ | ⟨i, rest⟩
  · rw [step_idle hi] at hs
    rw [step_idle (hin ▸ hi)] at ht
    cases hs; cases ht
    exact h
  · rw [step_eq_afterInput hi] at hs
    rw [step_eq_afterInput (hin ▸ hi)] at ht
    cases hs; cases ht
    obtain ⟨hacc, hcount⟩ := afterInput_keeps_streamSame h i
    exact ⟨hacc, hcount⟩

/-- Settles O49: a command other than CLRERR keeps the record, as a read's answer does, and an error answers Err. -/
theorem onlyErrorsClrerrAndResetWriteTheRecord : Obligations.OnlyErrorsClrerrAndResetWriteTheRecord := by
  intro s t hstep hne
  rcases step_eq_next_iff.1 hstep with ⟨-, rfl⟩ | ⟨i, rest, hin, rfl⟩
  · exact absurd ⟨rfl, rfl⟩ hne
  refine ⟨i, rest, hin, ?_⟩
  rcases afterInput_cases i s with ⟨hi, -⟩ | ⟨c, hc, heq⟩ | ⟨-, -, v, heq⟩ | ⟨-, -, e, -, heq⟩
  · exact .inl hi
  · refine .inr (.inl (hc.trans (congrArg some (not_not.1 fun hclrerr => hne ?_))))
    obtain ⟨hcause, hinfo⟩ := effect_recordSame hclrerr s
    rw [heq]
    exact ⟨hcause, hinfo⟩
  · rw [heq] at hne
    exact absurd ⟨rfl, rfl⟩ hne
  · rw [heq]
    exact .inr (.inr rfl)

/-! ### Runs over a list of inputs -/

/-- The state after the inputs of a list. -/
def afterInputs : List Input → State → State
  | [], s => s
  | i :: rest, s => afterInputs rest (afterInput i s)

theorem afterInputs_append (l m : List Input) (s : State) :
    afterInputs (l ++ m) s = afterInputs m (afterInputs l s) := by
  induction l generalizing s with
  | nil => rfl
  | cons i l ih => exact ih (afterInput i s)

theorem run_succ {s t : State} (h : step s = .next t) (k : Nat) :
    Host.Core.run core (k + 1) s = Host.Core.run core k t := by
  simp only [Host.Core.run, show core.step s = .next t from h]

/-- As many steps as there are inputs in a list take them all. -/
theorem run_afterInputs (l rest : List Input) (s : State) :
    Host.Core.run core l.length (s.setInputs (l ++ rest)) = .next ((afterInputs l s).setInputs rest) := by
  induction l generalizing s with
  | nil => rfl
  | cons i l ih => exact (run_succ (step_setInputs_afterInput i (l ++ rest) s) l.length).trans (ih (afterInput i s))

/-! ### The stream after a run (R65) -/

/-- R65: inputs that start no stream lengthen the stream by the bytes they feed. -/
theorem tracksStream_afterInputs {s : State} {str : List Byte} (h : TracksStream s str) {l : List Input}
    (hl : ∀ i ∈ l, startsStream i = false) : TracksStream (afterInputs l s) (str ++ l.flatMap fedByInput) := by
  induction l generalizing s str with
  | nil => rwa [List.flatMap_nil, List.append_nil]
  | cons i l ih =>
    obtain ⟨hi, hl⟩ := List.forall_mem_cons.1 hl
    have hstep : TracksStream (afterInput i s) (str ++ fedByInput i) := by
      have := tracksStream_afterInput h i
      rwa [streamAfter, if_neg (by rw [hi]; decide)] at this
    rw [List.flatMap_cons, ← List.append_assoc]
    exact ih hstep hl

/-- Settles O29: CLR leaves the empty stream, and the inputs after it lengthen it. -/
theorem resultDependsOnlyOnTheBytesFed : Obligations.ResultDependsOnlyOnTheBytesFed := by
  intro s l rest hl
  have htracks : TracksStream (afterInputs (.access (writeOf .clr) :: l) s) (l.flatMap fedByInput) := by
    have hclr : TracksStream (afterInput (.access (writeOf .clr)) s) [] := by
      rw [afterInput_writeOf]; exact .nil rfl rfl
    exact tracksStream_afterInputs hclr hl
  have hrest := htracks.of_streamSame (t := (afterInputs (.access (writeOf .clr) :: l) s).setInputs rest) ⟨rfl, rfl⟩
  refine ⟨_, ?_, rfl, hrest.memRead_result, hrest.count⟩
  rw [Nat.add_comm]
  exact run_afterInputs (.access (writeOf .clr) :: l) rest s

/-! ### The bytes are all that ADDB and ADDW feed (R66) -/

/-- The state after the bytes of a list. -/
def feedAll : List Byte → State → State
  | [], s => s
  | b :: rest, s => feedAll rest (feed b s)

theorem feedAll_append (l m : List Byte) (s : State) : feedAll (l ++ m) s = feedAll m (feedAll l s) := by
  induction l generalizing s with
  | nil => rfl
  | cons b l ih => exact ih (feed b s)

theorem effect_eq_feedAll {c : Instr} (hc : feeds c = true) (s : State) : effect c s = feedAll (fedBy c) s := by
  cases c with
  | addb | addw => rfl
  | nop | clr | build | clrerr => cases hc

theorem effects_eq_feedAll {cs : List Instr} (hcs : ∀ c ∈ cs, feeds c = true) (s : State) :
    effects cs s = feedAll (cs.flatMap fedBy) s := by
  induction cs generalizing s with
  | nil => rfl
  | cons c cs ih =>
    obtain ⟨hc, hcs⟩ := List.forall_mem_cons.1 hcs
    rw [List.flatMap_cons, feedAll_append, ← effect_eq_feedAll hc, effects, ih hcs]

theorem effects_eq_of_fedBy_eq {cs ds : List Instr} (hcs : ∀ c ∈ cs, feeds c = true) (hds : ∀ c ∈ ds, feeds c = true)
    (hfed : cs.flatMap fedBy = ds.flatMap fedBy) (s : State) : effects cs s = effects ds s := by
  rw [effects_eq_feedAll hcs, effects_eq_feedAll hds, hfed]

/-- Settles O30: both lists feed one sequence of bytes, and the state depends on nothing else. -/
theorem splittingTheStreamChangesNothing : Obligations.SplittingTheStreamChangesNothing := by
  intro cs ds hfeeds hfed s
  obtain ⟨hcs, hds⟩ := List.forall_mem_append.1 hfeeds
  exact ⟨_, execAll_eq cs s, by rw [effects_eq_of_fedBy_eq hcs hds hfed, execAll_eq]⟩

/-! ### The order of words (R66) -/

theorem onesAdd_comm {a u v : Nat} (ha : a < 2 ^ 32) (huv : u + v < 2 ^ 32) :
    onesAdd (onesAdd a u) v = onesAdd (onesAdd a v) u := by
  rw [onesAdd_onesAdd ha huv, onesAdd_onesAdd ha (by rwa [Nat.add_comm]), Nat.add_comm]

/-- What an ADDW adds to ACC: its word, or at an odd position the word with its bytes exchanged (R61). -/
def wordAddend (w : Half) (count : Word) : Nat :=
  if count.toNat % 2 = 0 then w.toNat else w.toNat / 2 ^ 8 + w.toNat % 2 ^ 8 * 2 ^ 8

theorem wordAddend_lt (w : Half) (count : Word) : wordAddend w count < 2 ^ 16 := by
  have := w.isLt
  rw [wordAddend]; split_ifs <;> omega

theorem effect_addw_acc_toNat (w : Half) (s : State) :
    (effect (.addw w) s).acc.toNat = onesAdd s.acc.toNat (wordAddend w s.count) := feed_feed_acc_toNat w s

theorem effect_addw_count (w : Half) (s : State) : (effect (.addw w) s).count = s.count + 1 + 1 := rfl

theorem wordAddend_count_add_two (w : Half) (count : Word) : wordAddend w (count + 1 + 1) = wordAddend w count := by
  have hparity : (count + 1 + 1).toNat % 2 = count.toNat % 2 := by
    simp only [BitVec.toNat_add]; omega
  rw [wordAddend, wordAddend, hparity]

theorem effect_addw_comm (w z : Half) (s : State) :
    effect (.addw z) (effect (.addw w) s) = effect (.addw w) (effect (.addw z) s) := by
  have hacc : (effect (.addw z) (effect (.addw w) s)).acc = (effect (.addw w) (effect (.addw z) s)).acc := by
    have := wordAddend_lt w s.count
    have := wordAddend_lt z s.count
    apply BitVec.eq_of_toNat_eq
    simp only [effect_addw_acc_toNat, effect_addw_count, wordAddend_count_add_two]
    exact onesAdd_comm s.acc.isLt (by omega)
  exact congrArg (fun a => s.setStream a (s.count + 1 + 1 + 1 + 1)) hacc

theorem effects_addw_perm {ws zs : List Half} (h : ws.Perm zs) (s : State) :
    effects (ws.map .addw) s = effects (zs.map .addw) s := by
  induction h generalizing s with
  | nil => rfl
  | cons w _ ih => exact ih (effect (.addw w) s)
  | swap w z l => exact congrArg (effects (l.map .addw)) (effect_addw_comm z w s)
  | trans _ _ ih ih' => exact (ih s).trans (ih' s)

/-- Settles O31: neighbours may be exchanged, since both words stand at positions of one parity. -/
theorem wordOrderDoesNotMatter : Obligations.WordOrderDoesNotMatter := by
  intro ws zs hperm s
  exact ⟨_, execAll_eq _ s, by rw [effects_addw_perm hperm, execAll_eq]⟩

/-! ### Commands repeated and exchanged (R34, R66, R94) -/

theorem effect_effect_self {c : Instr} (hc : feeds c = false) (s : State) : effect c (effect c s) = effect c s := by
  cases c with
  | addb | addw => cases hc
  | nop | clr | build | clrerr => rfl

/-- Settles O18: the four write constants or nothing; a second ADDB counts one byte more. -/
theorem repeatedCommands : Obligations.RepeatedCommands := by
  refine ⟨fun i hi s => ?_, fun b s => ?_⟩
  · have hfeeds : feeds i = false := by rcases hi with rfl | rfl | rfl | rfl <;> rfl
    exact ⟨_, exec_eq i s, by rw [exec_eq, effect_effect_self hfeeds]⟩
  · have hcount (t : State) : (effect (.addb b) t).count.toNat = (t.count.toNat + 1) % 2 ^ 32 := feed_count_toNat b t
    refine ⟨_, _, exec_eq _ s, exec_eq _ _, fun heq => ?_, ?_⟩
    · have hne := hcount (effect (.addb b) s)
      rw [heq] at hne
      omega
    · rw [hcount, hcount]; omega

theorem effect_build_comm {c : Instr} (hc : c = .clr ∨ feeds c = true) (s : State) :
    effect c (effect .build s) = effect .build (effect c s) := by
  cases c with
  | clr | addb | addw => rfl
  | nop | build | clrerr => simp [feeds] at hc

/-- Settles O19: BUILD writes FRAME, and the stream commands ACC and COUNT. -/
theorem buildAndTheStreamDoNotInteract : Obligations.BuildAndTheStreamDoNotInteract := by
  intro i hi s
  refine ⟨_, execAll_eq _ s, ?_⟩
  rw [execAll_eq]
  exact congrArg _ (effect_build_comm hi s).symm

theorem feed_zero_acc (s : State) : (feed 0x00 s).acc = s.acc := by
  apply BitVec.eq_of_toNat_eq
  have := s.acc.isLt
  rw [feed_acc_toNat, show (0x00 : Byte).toNat = 0 from rfl, Nat.mul_zero, onesAdd, Nat.add_zero, if_pos this]

/-- Settles O32: adding zero leaves ACC, of which RESULT is a function. -/
theorem zeroByteMovesOnlyTheParity : Obligations.ZeroByteMovesOnlyTheParity := by
  intro s
  refine ⟨_, exec_eq _ s, feed_zero_acc s, oddFlag_feed 0x00 s, ?_⟩
  rw [memRead_result, memRead_result, effect, feed_zero_acc]

end Sys2Proof.Machine
end

section
/-! PROOFS. Runs the host arranges: BUILD's image fed back (spec 41_formatter.md R71), reads with reads between them
(20_memory.md R34), a cleared block (70_reset_and_hazards.md R90), and the assembler's lines and pseudo-instructions
(30_encoding.md R52, R53). -/

namespace Sys2Proof.Machine

/-! ### The expansion of ADDBYTES feeds its bytes (R53) -/

theorem fedBy_addw_wordOfBytes (hi lo : Byte) : fedBy (.addw (wordOfBytes hi lo)) = [hi, lo] := by
  have hlo := lo.isLt
  have hword : (wordOfBytes hi lo).toNat = hi.toNat * 256 + lo.toNat := append_toNat hi lo
  have hfirst : firstByte (wordOfBytes hi lo) = hi := by
    rw [← BitVec.toNat_inj, firstByte_toNat, hword]; omega
  have hsecond : secondByte (wordOfBytes hi lo) = lo := by
    rw [← BitVec.toNat_inj, secondByte_toNat, hword]; omega
  rw [fedBy, hfirst, hsecond]

theorem pairedCommands_fedBy (bs : List Byte) : (pairedCommands bs).flatMap fedBy = bs := by
  induction bs using pairedCommands.induct with
  | case1 hi lo rest ih => rw [pairedCommands, List.flatMap_cons, ih, fedBy_addw_wordOfBytes]; rfl
  | case2 b => rfl
  | case3 => rfl

theorem pairedCommands_feeds (bs : List Byte) : ∀ c ∈ pairedCommands bs, feeds c = true := by
  induction bs using pairedCommands.induct with
  | case1 hi lo rest ih => exact List.forall_mem_cons.2 ⟨rfl, ih⟩
  | case2 b => exact List.forall_mem_singleton.2 rfl
  | case3 => exact nofun

theorem addbs_fedBy (bs : List Byte) : (bs.map Instr.addb).flatMap fedBy = bs := by
  induction bs with
  | nil => rfl
  | cons b bs ih => rw [List.map_cons, List.flatMap_cons, ih]; rfl

theorem addbs_feeds (bs : List Byte) : ∀ c ∈ bs.map Instr.addb, feeds c = true := by simp [feeds]

/-- R53, R66: the ADDWs of the pairs leave the state that one ADDB a byte leaves. -/
theorem effects_pairedCommands (bs : List Byte) (s : State) :
    effects (pairedCommands bs) s = effects (bs.map .addb) s :=
  effects_eq_of_fedBy_eq (pairedCommands_feeds bs) (addbs_feeds bs)
    (by rw [pairedCommands_fedBy, addbs_fedBy]) s

theorem tracksStream_effects {s : State} {str : List Byte} (h : TracksStream s str) {cs : List Instr}
    (hcs : ∀ c ∈ cs, feeds c = true) : TracksStream (effects cs s) (str ++ cs.flatMap fedBy) := by
  induction cs generalizing s str with
  | nil => rwa [List.flatMap_nil, List.append_nil]
  | cons c cs ih =>
    obtain ⟨hc, hcs⟩ := List.forall_mem_cons.1 hcs
    have hstep := tracksStream_effect h c
    rw [if_neg (by rintro rfl; cases hc)] at hstep
    rw [List.flatMap_cons, ← List.append_assoc]
    exact ih hstep hcs

/-- R59, R53: CLR and then the expansion of ADDBYTES leave the stream of the bytes. -/
theorem tracksStream_clr_pairedCommands (bs : List Byte) (s : State) :
    TracksStream (effects (.clr :: pairedCommands bs) s) bs := by
  have hclr : TracksStream (effect .clr s) [] := .nil rfl rfl
  have hbytes := tracksStream_effects hclr (pairedCommands_feeds bs)
  rwa [pairedCommands_fedBy] at hbytes

/-! ### The image fed back (R71) -/

theorem echoFrame_toList : echoFrame.toList = imageWith 0xF7FF := by
  refine List.ext_getElem (by rw [Vector.length_toList]; rfl) fun i hi himage => ?_
  rw [Vector.length_toList] at hi
  rw [Vector.getElem_toList, ← List.getD_eq_getElem _ 0x00]
  exact echoFrame_byte ⟨i, hi⟩

/-- The header's two words are `0x0800` and its one's complement. -/
theorem wordSum_image : wordSum (imageWith 0xF7FF) = 0xFFFF := by decide

/-- Settles O33: CLR and the bytes leave their stream, whose word sum is `0xFFFF`, in whatever way they are fed. -/
theorem builtFrameVerifiesItself : Obligations.BuiltFrameVerifiesItself := by
  intro s
  have hframe : (effect .build s).frame.toList = imageWith 0xF7FF := echoFrame_toList
  have htracks := tracksStream_clr_pairedCommands (imageWith 0xF7FF) (effect .build s)
  have hacc : (effects (.clr :: pairedCommands (imageWith 0xF7FF)) (effect .build s)).acc = 0x0000FFFF := by
    apply BitVec.eq_of_toNat_eq
    rw [htracks.acc_eq_wordSum (by rw [wordSum_image]; norm_num), wordSum_image]
    rfl
  refine ⟨_, _, exec_eq .build s, ?_, execAll_eq _ _, ?_, ?_, ?_⟩ <;> rw [hframe]
  · rw [execAll_eq, effects, effects, effects_pairedCommands]
  · exact hacc
  · exact BitVec.eq_of_toNat_eq htracks.count
  · exact memRead_result_of_acc hacc (by decide)

/-! ### Reads between reads (R34) -/

/-- The response to a read. -/
def readResponse (off : BitVec 8) (n : AccessSize) (s : State) : Response :=
  match memRead off n s with
  | .ok v => .okRead v
  | .error _ => .err

/-- The input that a read is. -/
def readInput (p : BitVec 8 × AccessSize) : Input := .access (.read p.1 p.2)

theorem afterInput_read_responses (p : BitVec 8 × AccessSize) (s : State) :
    (afterInput (readInput p) s).responses = s.responses ++ [readResponse p.1 p.2 s] := by
  rw [readInput, afterInput, readResponse]
  cases memRead p.1 p.2 s <;> rfl

theorem afterInputs_reads_responses (l : List (BitVec 8 × AccessSize)) (s : State) :
    ∃ mid, (afterInputs (l.map readInput) s).responses = s.responses ++ mid ∧ mid.length = l.length := by
  induction l generalizing s with
  | nil => exact ⟨[], (List.append_nil _).symm, rfl⟩
  | cons p l ih =>
    obtain ⟨mid, hmid, hlen⟩ := ih (afterInput (readInput p) s)
    refine ⟨readResponse p.1 p.2 s :: mid, ?_, congrArg (· + 1) hlen⟩
    rw [List.map_cons, afterInputs, hmid, afterInput_read_responses, List.append_assoc]
    rfl

@[simp] theorem readReg_respond (s : State) (r : Response) (g : Reg) : readReg (s.respond r) g = readReg s g := by
  cases g <;> rfl

/-- R23 to R25, R75: an error shows in STATUS, ERRCAUSE and ERRINFO only. -/
theorem readReg_raiseBusError {g : Reg} (hstatus : g ≠ .status) (hcause : g ≠ .errCause) (hinfo : g ≠ .errInfo)
    (e : BusError) (s : State) : readReg (raiseBusError e s) g = readReg s g := by
  cases g with
  | status => exact absurd rfl hstatus
  | errCause => exact absurd rfl hcause
  | errInfo => exact absurd rfl hinfo
  | cmd | acc | count | result | frame => rfl

/-- A read errs in every state, or it is a read of a register. -/
theorem memRead_error_or_register (off : BitVec 8) (n : AccessSize) :
    (∃ e, ∀ s, memRead off n s = .error e) ∨ ∃ r : Reg, r.offset = off ∧ n = .four := by
  by_cases hbad : n ≠ .four ∨ off.toNat % 4 ≠ 0
  · exact .inl ⟨_, memRead_badAccess hbad⟩
  have hlegal : n = .four ∧ off.toNat % 4 = 0 := by tauto
  by_cases hmap : isMapped off.toNat = true
  · obtain ⟨r, hr⟩ := exists_offset_of_isMapped hmap
    exact .inr ⟨r, hr, hlegal.1⟩
  · exact .inl ⟨_, memRead_unmapped hlegal (Bool.eq_false_iff.2 hmap)⟩

/-- The response to a read is the same after a read that answers Ok, and, apart from the three registers that show the
error record, after any read. -/
theorem readResponse_afterInput_read {off : BitVec 8} {n : AccessSize} {p : BitVec 8 × AccessSize}
    (h : (∃ r : Reg, p = (r.offset, .four)) ∨ (off ≠ 0x10 ∧ off ≠ 0x14 ∧ off ≠ 0x18)) (s : State) :
    readResponse off n (afterInput (readInput p) s) = readResponse off n s := by
  rcases memRead_error_or_register off n with ⟨e, he⟩ | ⟨g, rfl, rfl⟩
  · rw [readResponse, readResponse, he, he]
  have hreg : readReg (afterInput (readInput p) s) g = readReg s g := by
    rcases h with ⟨r, rfl⟩ | ⟨hstatus, hcause, hinfo⟩
    · rw [readInput, afterInput, memRead_offset]
      exact readReg_respond s _ g
    · rw [readInput, afterInput]
      cases memRead p.1 p.2 s with
      | ok v => exact readReg_respond s _ g
      | error e =>
        exact readReg_raiseBusError (fun hg => hstatus (by rw [hg]; rfl)) (fun hg => hcause (by rw [hg]; rfl))
          (fun hg => hinfo (by rw [hg]; rfl)) e s
  rw [readResponse, readResponse, memRead_offset, memRead_offset, hreg]

theorem readResponse_afterInputs_reads {off : BitVec 8} {n : AccessSize} {l : List (BitVec 8 × AccessSize)}
    (h : ∀ p ∈ l, (∃ r : Reg, p = (r.offset, .four)) ∨ (off ≠ 0x10 ∧ off ≠ 0x14 ∧ off ≠ 0x18)) (s : State) :
    readResponse off n (afterInputs (l.map readInput) s) = readResponse off n s := by
  induction l generalizing s with
  | nil => rfl
  | cons p l ih =>
    obtain ⟨hp, hl⟩ := List.forall_mem_cons.1 h
    exact (ih hl _).trans (readResponse_afterInput_read hp s)

/-- A read does not change the response to the same read. -/
theorem readResponse_afterInput_self (off : BitVec 8) (n : AccessSize) (s : State) :
    readResponse off n (afterInput (readInput (off, n)) s) = readResponse off n s := by
  rcases memRead_error_or_register off n with ⟨e, he⟩ | ⟨g, rfl, rfl⟩
  · rw [readResponse, readResponse, he, he]
  · exact readResponse_afterInput_read (.inl ⟨g, rfl⟩) s

theorem eq_offset_of_isMapped {p : BitVec 8 × AccessSize} (h : p.2 = .four ∧ isMapped p.1.toNat = true) :
    ∃ r : Reg, p = (r.offset, .four) := by
  obtain ⟨r, hr⟩ := exists_offset_of_isMapped h.2
  exact ⟨r, Prod.ext hr.symm h.1⟩

/-- Settles O45: the run is one over a list of reads, and none of them changes what the last one answers. -/
theorem readsAreIdempotent : Obligations.ReadsAreIdempotent := by
  intro s rest off n between hbetween
  have hkeep : ∀ p ∈ between, (∃ r : Reg, p = (r.offset, .four)) ∨ (off ≠ 0x10 ∧ off ≠ 0x14 ∧ off ≠ 0x18) :=
    fun p hp => hbetween.imp_left fun hok => eq_offset_of_isMapped (hok p hp)
  have hlast := readResponse_afterInputs_reads (n := n) hkeep (afterInput (readInput (off, n)) s)
  rw [readResponse_afterInput_self] at hlast
  obtain ⟨mid, hmid, hlen⟩ := afterInputs_reads_responses between (afterInput (readInput (off, n)) s)
  let inputs := readInput (off, n) :: (between.map readInput ++ [readInput (off, n)])
  have hlen' : inputs.length = between.length + 2 := by simp [inputs]
  refine ⟨(afterInputs inputs s).setInputs rest, readResponse off n s, mid, ?_, ?_, hlen, rfl⟩
  · have hrun := run_afterInputs inputs rest s
    rw [hlen', List.cons_append, List.append_assoc] at hrun
    exact hrun
  · rw [setInputs_responses, afterInputs, afterInputs_append, afterInputs, afterInputs, afterInput_read_responses,
      hlast, hmid, afterInput_read_responses]
    simp

/-! ### A cleared block (R90) -/

theorem setFrame_self {s : State} {f : Vector Byte 72} {b : Bool} (hf : s.frame = f) (hb : s.frameValid = b) :
    s.setFrame f b = s := by
  rw [← hf, ← hb]; rfl

/-- Settles O53: FRAME is already zero, and CLR and CLRERR write the other elements. -/
theorem resetIsAClearedBlock : Obligations.ResetIsAClearedBlock := by
  intro s hinv hvalid
  have hframe : s.frame = State.reset.frame :=
    Vector.ext fun i hi => (hinv.frame.unbuilt hvalid ⟨i, hi⟩).trans (by simp [State.reset])
  have hself : s.setFrame State.reset.frame State.reset.frameValid = s := setFrame_self hframe hvalid
  rw [execAll_eq]
  exact congrArg (fun u => (.next (effects [.clr, .clrerr] u) : Host.Outcome State Fault Refusal)) hself.symm

/-! ### The assembler's lines (R52) -/

theorem encode_addb_ofNat {n : Nat} (h : n ≤ 0xFF) :
    encode (.addb (BitVec.ofNat 8 n)) = BitVec.ofNat 32 (0x02000000 + n) := by
  rw [← BitVec.toNat_inj, encode_addb_toNat, BitVec.toNat_ofNat, BitVec.toNat_ofNat]
  omega

theorem encode_addw_ofNat {n : Nat} (h : n ≤ 0xFFFF) :
    encode (.addw (BitVec.ofNat 16 n)) = BitVec.ofNat 32 (0x03000000 + n) := by
  rw [← BitVec.toNat_inj, encode_addw_toNat, BitVec.toNat_ofNat, BitVec.toNat_ofNat]
  omega

/-- R52: a number in range gives its bits, and another is refused. -/
theorem checked_decide (p : Prop) [Decidable p] (w n : Nat) :
    checked (decide p) w n = if p then some (BitVec.ofNat w n) else none := by
  simp [checked]

theorem Target.offset_literal (off : Nat) :
    (Target.literal off).offset = if off ≤ 0xFF then some (BitVec.ofNat 8 off) else none :=
  checked_decide (off ≤ 0xFF) 8 off

theorem narrowOperand_eq {size : AccessSize} (hsize : size ≠ .four) (n : Nat) :
    narrowOperand size n = if n < 2 ^ (8 * size.bytes) then some (BitVec.ofNat 32 n) else none := by
  cases size with
  | four => exact absurd rfl hsize
  | one =>
    rw [narrowOperand, imm8Ok, checked_decide]
    exact if_congr Nat.lt_succ_iff.symm rfl rfl
  | two =>
    rw [narrowOperand, imm16Ok, checked_decide]
    exact if_congr Nat.lt_succ_iff.symm rfl rfl

/-- A line of two numbers is refused when either is out of range. -/
theorem ite_bind_ite {α β γ : Type} (p q : Prop) [Decidable p] [Decidable q] (a : α) (b : β) (f : α → β → γ) :
    ((if p then some a else none) >>= fun x => (if q then some b else none) >>= fun y => pure (f x y))
      = if p ∧ q then some (f a b) else none := by
  by_cases hp : p <;> by_cases hq : q <;> simp [hp, hq]

/-- Settles O54: each line's numbers are checked, and the words of ADDB and ADDW are sums. -/
theorem assemblerLinesAreTheirAccesses : Obligations.AssemblerLinesAreTheirAccesses := by
  refine ⟨fun n => ?_, fun n => ?_, rfl, rfl, rfl, rfl, fun r => rfl, fun off => ?_, fun r n => ?_, fun off n => ?_,
    fun size hsize => ⟨fun off => ?_, fun off n => ?_⟩⟩
  · rw [assembleLine, imm8Ok, checked_decide]
    split_ifs with h
    · rw [Option.map_some, writeOf, encode_addb_ofNat h]; rfl
    · rfl
  · rw [assembleLine, imm16Ok, checked_decide]
    split_ifs with h
    · rw [Option.map_some, writeOf, encode_addw_ofNat h]; rfl
    · rfl
  · rw [assembleLine, Target.offset_literal]
    split_ifs <;> rfl
  · rw [assembleLine, imm32Ok, checked_decide]
    split_ifs <;> rfl
  · rw [assembleLine, Target.offset_literal, imm32Ok, checked_decide]
    exact ite_bind_ite ..
  · have hok : (offsetOk off && size != .four) = decide (off ≤ 0xFF) := by simp [offsetOk, hsize]
    rw [assembleLine, hok, checked_decide]
    split_ifs <;> rfl
  · rw [assembleLine, offsetOk, checked_decide, narrowOperand_eq hsize]
    exact ite_bind_ite ..

/-! ### Pseudo-instructions (R53) -/

theorem operandBytes_toNat (bs : List Byte) : operandBytes (bs.map BitVec.toNat) = some bs := by
  have hbyte (b : Byte) : checked (imm8Ok b.toNat) 8 b.toNat = some b := by
    have := b.isLt
    rw [imm8Ok, checked_decide, if_pos (by omega), BitVec.ofNat_toNat, BitVec.setWidth_eq]
  have hbytes : (fun n => checked (imm8Ok n) 8 n) ∘ BitVec.toNat = fun b : Byte => pure b := funext hbyte
  rw [operandBytes, List.mapM_map, hbytes, List.mapM_pure, List.map_id']
  rfl

theorem assembleLine_addb_toNat (b : Byte) : assembleLine (.addb b.toNat) = some [writeOf (.addb b)] := by
  have := b.isLt
  rw [assembleLine, imm8Ok, checked_decide, if_pos (by omega), BitVec.ofNat_toNat, BitVec.setWidth_eq, Option.map_some]

theorem effect_respond (c : Instr) (s : State) (r : Response) :
    effect c (s.respond r) = (effect c s).respond r := by
  cases c <;> rfl

theorem effects_respond (cs : List Instr) (s : State) (r : Response) :
    effects cs (s.respond r) = (effects cs s).respond r := by
  induction cs generalizing s with
  | nil => rfl
  | cons c cs ih => rw [effects, effects, effect_respond, ih]

theorem effects_responses (cs : List Instr) (s : State) : (effects cs s).responses = s.responses := by
  induction cs generalizing s with
  | nil => rfl
  | cons c cs ih => rw [effects, ih, effect_responses]

/-- The host's receiving several responses. -/
def respondAll (s : State) (rs : List Response) : State := { s with responses := s.responses ++ rs }

theorem respondAll_respond (s : State) (r : Response) (rs : List Response) :
    respondAll (s.respond r) rs = respondAll s (r :: rs) := by
  simp [respondAll, State.respond]

/-- R32, R52: the writes of commands run the commands, each answered Ok. -/
theorem afterInputs_commands (cs : List Instr) (s : State) :
    afterInputs ((cs.map writeOf).map .access) s = respondAll (effects cs s) (List.replicate cs.length .okWrite) := by
  induction cs generalizing s with
  | nil => simp [afterInputs, effects, respondAll]
  | cons c cs ih =>
    rw [List.map_cons, List.map_cons, afterInputs, afterInput_writeOf, ih, effects_respond, respondAll_respond]
    rfl

theorem run_accesses (l : List Access) (rest : List Input) (s : State) :
    Host.Core.run core l.length (s.setInputs (l.map .access ++ rest))
      = .next ((afterInputs (l.map .access) s).setInputs rest) := by
  have hrun := run_afterInputs (l.map .access) rest s
  rwa [List.length_map] at hrun

theorem run_commands (cs : List Instr) (rest : List Input) (s : State) :
    Host.Core.run core cs.length (s.setInputs ((cs.map writeOf).map .access ++ rest))
      = .next ((respondAll (effects cs s) (List.replicate cs.length .okWrite)).setInputs rest) := by
  have hrun := run_accesses (cs.map writeOf) rest s
  rwa [List.length_map, afterInputs_commands] at hrun

/-- Settles O55: both expansions write commands that feed the same bytes. -/
theorem addBytesIsTheAddbLines : Obligations.AddBytesIsTheAddbLines := by
  intro bs
  have hpseudo : assembleLine (.addBytes (bs.map BitVec.toNat)) = some ((pairedCommands bs).map writeOf) := by
    rw [assembleLine, operandBytes_toNat, Option.map_some]
  have hlines : (bs.mapM fun b => assembleLine (.addb b.toNat)) = some (bs.map fun b => [writeOf (.addb b)]) := by
    simp only [assembleLine_addb_toNat]
    exact List.mapM_pure
  refine ⟨_, _, hpseudo, hlines, fun s rest => ?_⟩
  have hflatten : (bs.map fun b => [writeOf (.addb b)]).flatten = (bs.map Instr.addb).map writeOf := by
    rw [List.map_map, ← List.flatMap_def]
    exact List.map_eq_flatMap.symm
  have hpaired := run_commands (pairedCommands bs) rest s
  have haddbs := run_commands (bs.map .addb) rest s
  rw [List.length_map] at haddbs
  rw [List.length_map, hflatten]
  refine ⟨_, _, hpaired, haddbs, ?_, rfl, rfl⟩
  rw [effects_pairedCommands]
  exact ⟨⟨rfl, rfl⟩, .of_eq rfl rfl, ⟨rfl, rfl⟩⟩

/-- R62: with the stream of `str` in the block, the host's read of RESULT is answered the checksum. -/
theorem readResponse_result {s : State} {str : List Byte} (h : TracksStream s str) :
    readResponse Reg.result.offset .four s = .okRead ((csum str).setWidth 32) := by
  have hread : memRead Reg.result.offset .four s = _ := h.memRead_result
  rw [readResponse, hread]

/-- Settles O56: after the commands the block holds the stream of the bytes, and the last access reads RESULT. -/
theorem csumPseudoReadsTheChecksum : Obligations.CsumPseudoReadsTheChecksum := by
  intro bs
  let commands := Instr.clr :: pairedCommands bs
  have hassembled : assembleLine (.csum (bs.map BitVec.toNat))
      = some (commands.map writeOf ++ [.read Reg.result.offset .four]) := by
    rw [assembleLine, operandBytes_toNat, Option.map_some]; rfl
  refine ⟨_, hassembled, fun s rest => ⟨_, run_accesses _ rest s, rfl, ?_⟩⟩
  let t := respondAll (effects commands s) (List.replicate commands.length .okWrite)
  have htracks : TracksStream t bs := (tracksStream_clr_pairedCommands bs s).of_streamSame ⟨rfl, rfl⟩
  have hlast := afterInput_read_responses (Reg.result.offset, .four) t
  rw [readResponse_result htracks] at hlast
  rw [setInputs_responses, List.map_append, afterInputs_append, afterInputs_commands]
  refine hlast.trans ?_
  simp [t, respondAll, effects_responses]

end Sys2Proof.Machine
end
